-- ==== Sys2Proof/Word.lean ====
section
/-!
DEFINITION. The widths of `spec/00_scope.md` rule R9 and `spec/30_encoding.md` rule R220.
-/

namespace Sys2Proof

/-- One stimulus: a 32-bit parallel word (R220). -/
abbrev Word := BitVec 32

/-- A 16-bit counter value, with modular arithmetic (R10). -/
abbrev Tick := BitVec 16

/-- One byte of a stored stimulus stream (R202). -/
abbrev Byte := BitVec 8

end Sys2Proof
end

