-- ==== Sys2Proof/Syntax.lean ====
section
/-!
DEFINITION. The stimuli of `spec/30_encoding.md` rule R222, one constructor per row of the opcode
table. An operand is the field of rule R220 that the row leaves free: the edge level (`true` =
rising), the 16-bit TICK, or the 16-bit VAL of a port write.
-/

namespace Sys2Proof

inductive Instr where
  /-- `RC_EDGE lvl, ts` (R40) -/
  | rcEdge (lvl : Bool) (ts : Tick)
  /-- `ECHO_EDGE L, lvl, ts` (R73) -/
  | echoEdgeL (lvl : Bool) (ts : Tick)
  /-- `ECHO_EDGE C, lvl, ts` (R73) -/
  | echoEdgeC (lvl : Bool) (ts : Tick)
  /-- `ECHO_EDGE R, lvl, ts` (R73) -/
  | echoEdgeR (lvl : Bool) (ts : Tick)
  /-- `CMP_MATCH MOTOR, tick` (R66); the tick is carried and not read (R226) -/
  | cmpMatchMotor (tick : Tick)
  /-- `CMP_MATCH SERVO, tick` (R67); the tick is carried and not read (R226) -/
  | cmpMatchServo (tick : Tick)
  /-- `CMP_MATCH TRIG, tick` (R76); the tick is carried and not read (R226) -/
  | cmpMatchTrig (tick : Tick)
  /-- `POLL now` (R103) -/
  | poll (now : Tick)
  /-- `SET_IN MODE_SEL, val` (R104, port 0) -/
  | setInModeSel (val : BitVec 16)
  /-- `SET_IN MAN_TRIG, val` (R104, port 1) -/
  | setInManTrig (val : BitVec 16)
  /-- `SET_IN AUTO_PULL, val` (R104, port 2) -/
  | setInAutoPull (val : BitVec 16)
  /-- `SET_IN TARGET, val` (R104, port 3) -/
  | setInTarget (val : BitVec 16)
  /-- `SET_IN EVADE_CMD, val` (R104, port 4) -/
  | setInEvadeCmd (val : BitVec 16)
  /-- `SET_IN SERVO_W0, val` (R104, port 5) -/
  | setInServoW0 (val : BitVec 16)
  /-- `SET_IN SERVO_W1, val` (R104, port 6) -/
  | setInServoW1 (val : BitVec 16)
  /-- `RESET` (R105) -/
  | reset
deriving DecidableEq, Repr

end Sys2Proof
end

