-- ==== Sys2Proof/WellFormed.lean ====
section
/-!
DEFINITION. Which stimuli are legal: the value ranges of `spec/30_encoding.md` rule R222, the only
constraint the constructors of `Instr` do not already carry.
-/

namespace Sys2Proof

/-- A boolean port takes VAL in {0, 1}; `EVADE_CMD` takes VAL in 0..4; every other operand is any
value of its field (R222). -/
def Instr.wellFormed (i : Instr) : Bool :=
  match i with
  | .rcEdge _ _ => true
  | .echoEdgeL _ _ => true
  | .echoEdgeC _ _ => true
  | .echoEdgeR _ _ => true
  | .cmpMatchMotor _ => true
  | .cmpMatchServo _ => true
  | .cmpMatchTrig _ => true
  | .poll _ => true
  | .setInModeSel val => decide (val.toNat ≤ 1)
  | .setInManTrig val => decide (val.toNat ≤ 1)
  | .setInAutoPull val => decide (val.toNat ≤ 1)
  | .setInTarget val => decide (val.toNat ≤ 1)
  | .setInEvadeCmd val => decide (val.toNat ≤ 4)
  | .setInServoW0 _ => true
  | .setInServoW1 _ => true
  | .reset => true

end Sys2Proof
end

