-- ==== Sys2Proof/Decode.lean ====
section
/-!
DEFINITION. The decoder and the encoder of `spec/30_encoding.md`. `decode` reads the fields of rule
R220 and rejects by name; `encode` packs them; `opcodeTable` is rule R222 transcribed as masks and
matches, a second reading of the same table that the decoder is compared with.
-/

namespace Sys2Proof

/-- Why a word is not a stimulus: one name for each kind of bullet of R224. The block records none of
them (R300), so which name is answered where two apply is the model's own.
(DESIGN CHOICE, safe: `notes/assumptions/8.md`.) -/
inductive DecodeError where
  /-- a bit of RSV (23:17) is set -/
  | reservedBits
  /-- OP is 0 or 7..15 -/
  | reservedOp
  /-- SEL names no sensor, channel or port of this class, or must be 0 -/
  | badSelect
  /-- LVL is set for a class without a level -/
  | badLevel
  /-- VAL is outside the port's range -/
  | badValue
  /-- RESET with any of bits 27:0 set -/
  | resetOperand
  /-- fewer than four bytes are left of a stored stream: a partial word is not a stimulus (R204) -/
  | partialWord
deriving DecidableEq, Repr

/-! ## The fields of R220, operand assembly of R221 -/

def opField (w : Word) : BitVec 4 := w.extractLsb' 28 4
def selField (w : Word) : BitVec 4 := w.extractLsb' 24 4
def rsvField (w : Word) : BitVec 7 := w.extractLsb' 17 7
def lvlField (w : Word) : Bool := w.getLsbD 16
def lowField (w : Word) : BitVec 16 := w.extractLsb' 0 16

/-- `ECHO_EDGE`: SEL 0, 1, 2 are Left, Center, Right (R222); 3..15 are illegal (R224). -/
def decodeEcho (sel : BitVec 4) (lvl : Bool) (ts : Tick) : Except DecodeError Instr :=
  match sel.toNat with
  | 0 => .ok (.echoEdgeL lvl ts)
  | 1 => .ok (.echoEdgeC lvl ts)
  | 2 => .ok (.echoEdgeR lvl ts)
  | _ => .error .badSelect

/-- `CMP_MATCH`: SEL 0, 1, 2 are MOTOR, SERVO, TRIG (R222); 3..15 are illegal (R224). -/
def decodeCmp (sel : BitVec 4) (tick : Tick) : Except DecodeError Instr :=
  match sel.toNat with
  | 0 => .ok (.cmpMatchMotor tick)
  | 1 => .ok (.cmpMatchServo tick)
  | 2 => .ok (.cmpMatchTrig tick)
  | _ => .error .badSelect

/-- The instruction `i` where VAL is within the port's range, else the illegal value of R224. -/
def decodeVal (max : Nat) (val : BitVec 16) (i : Instr) : Except DecodeError Instr :=
  if val.toNat ≤ max then .ok i else .error .badValue

/-- `SET_IN`: SEL is the port (R222), VAL its value, never truncated (R221). -/
def decodeSetIn (sel : BitVec 4) (val : BitVec 16) : Except DecodeError Instr :=
  match sel.toNat with
  | 0 => decodeVal 1 val (.setInModeSel val)
  | 1 => decodeVal 1 val (.setInManTrig val)
  | 2 => decodeVal 1 val (.setInAutoPull val)
  | 3 => decodeVal 1 val (.setInTarget val)
  | 4 => decodeVal 4 val (.setInEvadeCmd val)
  | 5 => .ok (.setInServoW0 val)
  | 6 => .ok (.setInServoW1 val)
  | _ => .error .badSelect

/-- A class that has no level: LVL must be 0 (R220). -/
def withoutLevel (lvl : Bool) (r : Except DecodeError Instr) : Except DecodeError Instr :=
  if lvl then .error .badLevel else r

/-- A class that selects nothing: SEL must be 0 (R222). -/
def withoutSelect (sel : BitVec 4) (r : Except DecodeError Instr) : Except DecodeError Instr :=
  if sel = 0 then r else .error .badSelect

/-- `RESET`: every bit of 27:0 must be 0 (R224). -/
def decodeReset (sel : BitVec 4) (lvl : Bool) (low : BitVec 16) : Except DecodeError Instr :=
  if sel = 0 ∧ lvl = false ∧ low = 0 then .ok .reset else .error .resetOperand

/-- The opcode map of R222 on the fields of a word whose RSV is 0. -/
def decodeFields (op sel : BitVec 4) (lvl : Bool) (low : BitVec 16) : Except DecodeError Instr :=
  match op.toNat with
  | 1 => withoutSelect sel (.ok (.rcEdge lvl low))
  | 2 => decodeEcho sel lvl low
  | 3 => withoutLevel lvl (decodeCmp sel low)
  | 4 => withoutLevel lvl (withoutSelect sel (.ok (.poll low)))
  | 5 => withoutLevel lvl (decodeSetIn sel low)
  | 6 => decodeReset sel lvl low
  | _ => .error .reservedOp

/-- The decoder of R222 and R224: total, each word one stimulus or one named rejection (R225). -/
def decode (w : Word) : Except DecodeError Instr :=
  if rsvField w = 0 then decodeFields (opField w) (selField w) (lvlField w) (lowField w)
  else .error .reservedBits

/-! ## The encoder -/

/-- The format of R220, most significant field first. -/
def pack (op sel : BitVec 4) (lvl : Bool) (low : BitVec 16) : Word :=
  op ++ sel ++ 0#7 ++ BitVec.ofBool lvl ++ low

/-- The word of a stimulus (R222, R223). Of an instruction that is not well formed it is the illegal
word with that value in VAL. -/
def encode (i : Instr) : Word :=
  match i with
  | .rcEdge lvl ts => pack 1 0 lvl ts
  | .echoEdgeL lvl ts => pack 2 0 lvl ts
  | .echoEdgeC lvl ts => pack 2 1 lvl ts
  | .echoEdgeR lvl ts => pack 2 2 lvl ts
  | .cmpMatchMotor tick => pack 3 0 false tick
  | .cmpMatchServo tick => pack 3 1 false tick
  | .cmpMatchTrig tick => pack 3 2 false tick
  | .poll now => pack 4 0 false now
  | .setInModeSel val => pack 5 0 false val
  | .setInManTrig val => pack 5 1 false val
  | .setInAutoPull val => pack 5 2 false val
  | .setInTarget val => pack 5 3 false val
  | .setInEvadeCmd val => pack 5 4 false val
  | .setInServoW0 val => pack 5 5 false val
  | .setInServoW1 val => pack 5 6 false val
  | .reset => pack 6 0 false 0

/-! ## The opcode table of R222, as masks and matches -/

/-- The mnemonic of a stimulus, as R222 spells it. -/
def Instr.mnemonic (i : Instr) : String :=
  match i with
  | .rcEdge _ _ => "RC_EDGE"
  | .echoEdgeL _ _ => "ECHO_EDGE.L"
  | .echoEdgeC _ _ => "ECHO_EDGE.C"
  | .echoEdgeR _ _ => "ECHO_EDGE.R"
  | .cmpMatchMotor _ => "CMP_MATCH.MOTOR"
  | .cmpMatchServo _ => "CMP_MATCH.SERVO"
  | .cmpMatchTrig _ => "CMP_MATCH.TRIG"
  | .poll _ => "POLL"
  | .setInModeSel _ => "SET_IN.MODE_SEL"
  | .setInManTrig _ => "SET_IN.MAN_TRIG"
  | .setInAutoPull _ => "SET_IN.AUTO_PULL"
  | .setInTarget _ => "SET_IN.TARGET"
  | .setInEvadeCmd _ => "SET_IN.EVADE_CMD"
  | .setInServoW0 _ => "SET_IN.SERVO_W0"
  | .setInServoW1 _ => "SET_IN.SERVO_W1"
  | .reset => "RESET"

/-- One row of R222. `lowMax` is the row's extra constraint, a bound on the three low bits (only
`SET_IN.EVADE_CMD` has one). -/
structure Row where
  mnemonic : String
  pattern : Word
  mask : Word
  lowMax : Nat
deriving DecidableEq, Repr

/-- R222: the word is legal by this row. -/
def Row.matches (r : Row) (w : Word) : Bool :=
  (w &&& r.mask == r.pattern) && decide ((w.extractLsb' 0 3).toNat ≤ r.lowMax)

/-- The sixteen rows of R222. -/
def opcodeTable : List Row :=
  [ ⟨"RC_EDGE", 0x10000000, 0xFFFE0000, 7⟩,
    ⟨"ECHO_EDGE.L", 0x20000000, 0xFFFE0000, 7⟩,
    ⟨"ECHO_EDGE.C", 0x21000000, 0xFFFE0000, 7⟩,
    ⟨"ECHO_EDGE.R", 0x22000000, 0xFFFE0000, 7⟩,
    ⟨"CMP_MATCH.MOTOR", 0x30000000, 0xFFFF0000, 7⟩,
    ⟨"CMP_MATCH.SERVO", 0x31000000, 0xFFFF0000, 7⟩,
    ⟨"CMP_MATCH.TRIG", 0x32000000, 0xFFFF0000, 7⟩,
    ⟨"POLL", 0x40000000, 0xFFFF0000, 7⟩,
    ⟨"SET_IN.MODE_SEL", 0x50000000, 0xFFFFFFFE, 7⟩,
    ⟨"SET_IN.MAN_TRIG", 0x51000000, 0xFFFFFFFE, 7⟩,
    ⟨"SET_IN.AUTO_PULL", 0x52000000, 0xFFFFFFFE, 7⟩,
    ⟨"SET_IN.TARGET", 0x53000000, 0xFFFFFFFE, 7⟩,
    ⟨"SET_IN.EVADE_CMD", 0x54000000, 0xFFFFFFF8, 4⟩,
    ⟨"SET_IN.SERVO_W0", 0x55000000, 0xFFFF0000, 7⟩,
    ⟨"SET_IN.SERVO_W1", 0x56000000, 0xFFFF0000, 7⟩,
    ⟨"RESET", 0x60000000, 0xFFFFFFFF, 7⟩ ]

/-! ## Stored streams (R202) and the host's table words -/

/-- The four bytes of a stored word, bits 7:0 at the lowest byte offset (R202). -/
def bytesOfWord (w : Word) : List Byte :=
  [w.extractLsb' 0 8, w.extractLsb' 8 8, w.extractLsb' 16 8, w.extractLsb' 24 8]

/-- The first word of a stored stream and the bytes after it; none where fewer than four bytes are
left (R204). -/
def wordOfBytes (bs : List Byte) : Option (Word × List Byte) :=
  match bs with
  | b0 :: b1 :: b2 :: b3 :: rest => some (b3 ++ b2 ++ b1 ++ b0, rest)
  | _ => none

/-- The first stimulus of a stored stream and the bytes after it. -/
def decodeBytes (bs : List Byte) : Except DecodeError (Instr × List Byte) :=
  match wordOfBytes bs with
  | none => .error .partialWord
  | some (w, rest) =>
    match decode w with
    | .ok i => .ok (i, rest)
    | .error e => .error e

/-- The words of a stored stream, first to last. A stream that ends inside a word is refused: a
partial word is not a stimulus (R204). -/
def streamOfBytes (bs : List Byte) : Except DecodeError (List Word) :=
  match bs with
  | [] => .ok []
  | b0 :: b1 :: b2 :: b3 :: rest => (streamOfBytes rest).map ((b3 ++ b2 ++ b1 ++ b0) :: ·)
  | _ => .error .partialWord

/-- The word with `nbits` bits `w`. A word of another width than 32 is not a stimulus (R204), so there
is none. (DEDUCED, safe: `notes/assumptions/9.md`.) -/
def tableWord (nbits w : Nat) : Option Word :=
  if nbits = 32 ∧ w < 2 ^ 32 then some (BitVec.ofNat 32 w) else none

/-- What the decoder reads from a table word, laid out as a stored stream lays it out (R202). -/
def decodeTableWord (nbits w : Nat) : Option Instr :=
  match tableWord nbits w with
  | none => none
  | some x =>
    match decodeBytes (bytesOfWord x) with
    | .ok (i, _) => some i
    | .error _ => none

end Sys2Proof
end

