-- ==== Sys2Proof/Config.lean ====
section
/-!
DEFINITION. The build-time parameters of `spec/00_scope.md` rule R7. None is state and no stimulus
changes one. The spec gives no value for any of them, so the build's parameter set is an
uninterpreted constant; the legal range of each parameter is in its type. (DESIGN CHOICE, safe:
`notes/assumptions/4.md`.)
-/

namespace Sys2Proof.Config

/-- A threshold of R7: 0..32767. -/
abbrev Threshold := Fin 32768

/-- A duration of R7: 1..65535. The bound below is part of the data, so no illegal duration exists.
The default 1 only shows that the type has a value (`build` needs one): it is no parameter's value. -/
structure Duration where
  ticks : Tick := 1
  positive : ticks ≠ 0 := by decide
deriving DecidableEq, Repr, Inhabited

/-- `PayloadBits` (K) of R7: 3 or 8. -/
inductive PayloadBits where
  | three
  | eight
deriving DecidableEq, Repr, Inhabited

/-- A turn direction (R35, R79). -/
inductive TurnDir where
  | left
  | right
deriving DecidableEq, Repr, Inhabited

/-- `ModeSource` of R7 and R83: which signal selects auto mode. -/
inductive ModeSource where
  | rcToggle
  | selectorPin
deriving DecidableEq, Repr, Inhabited

/-- The parameters of R7, in the order of its table. -/
structure Params where
  startLow : Threshold
  startIdle : Threshold
  dataZero : Threshold
  contIdle : Threshold
  voidSilence : Threshold
  payloadBits : PayloadBits
  totalWidth : Duration
  servoSubTicks : Duration
  motorHighTicks : Duration
  motorLowTicks : Duration
  trigWidthTicks : Duration
  collision : Threshold
  centerTurnDir : TurnDir
  modeSource : ModeSource
  /-- `TickPeriod` (R307), in whatever unit the platform uses: OPEN, and no rule reads it.
  (DESIGN CHOICE, safe: `notes/assumptions/5.md`.) -/
  tickPeriod : Nat
deriving DecidableEq, Repr, Inhabited

/-- The parameters of the build that is modelled: no value is known, so nothing can be proved of one
beyond the ranges of R7. -/
opaque build : Params

/-- `FrameBits` of R7, fixed. -/
abbrev frameBits : Nat := 32

/-- `PayloadStart` of R7, fixed. -/
abbrev payloadStart : Nat := 16

/-- The example configuration EX1 of R7. It exists for the test vectors of
`spec/95_test_vectors.md` only: nothing in the machine reads it. EX1 gives no `TickPeriod`, so its
value 1 here is the model's own. (DESIGN CHOICE, safe: `notes/assumptions/5.md`.) -/
def ex1 : Params where
  startLow := 400
  startIdle := 200
  dataZero := 50
  contIdle := 100
  voidSilence := 5000
  payloadBits := .three
  totalWidth := { ticks := 10 }
  servoSubTicks := { ticks := 100 }
  motorHighTicks := { ticks := 900 }
  motorLowTicks := { ticks := 100 }
  trigWidthTicks := { ticks := 10 }
  collision := 1000
  centerTurnDir := .right
  modeSource := .rcToggle
  tickPeriod := 1

end Sys2Proof.Config
end

