-- ==== Sys2Proof/Machine/State.lean ====
section
/-!
DEFINITION. The block state `S` of `spec/10_state.md`, one record per unit, and its reset (R37).
Enumerated fields are inductive types, so the codes the spec says are never held (R16, R23, R27,
R32) cannot be built; the codes themselves appear at the output ports only (`Machine/Outputs.lean`).
(DESIGN CHOICE, safe: `notes/assumptions/6.md`.)
-/

namespace Sys2Proof.Machine

/-- The RCDecoderState of R16. -/
inductive DecState where
  | reset
  | startFall
  | startRise
  | recvFall
  | recvRise
  | contFall1
  | contRise1
  | contFall2
  | contRise2
deriving DecidableEq, Repr

/-- The Command of R23. -/
inductive Command where
  | stop
  | up
  | down
  | left
  | right
  | ok
  | zero
deriving DecidableEq, Repr

/-- The motor command of R27. -/
inductive MotorCmd where
  | mStop
  | forward
  | backward
  | turnLeft
  | turnRight
deriving DecidableEq, Repr

/-- The SystemMode of R26. -/
inductive SysMode where
  | init
  | manual
  | searching
  | engaged
deriving DecidableEq, Repr

/-- The ranging sensors of R32. -/
inductive Sensor where
  | left
  | center
  | right
deriving DecidableEq, Repr

/-- The two phases of a probe (R33). -/
inductive Phase where
  | probeOut
  | probeIn
deriving DecidableEq, Repr

/-- One value for each of the three sensors. -/
structure PerSensor (α : Type) where
  left : α
  center : α
  right : α
deriving DecidableEq, Repr

/-- RC Decoder registers (R16 to R20). -/
structure Decoder where
  /-- `dec_state` (R16) -/
  state : DecState
  /-- `t_edge` (R17) -/
  tEdge : Tick
  /-- `bit_idx` (R18) -/
  bitIdx : BitVec 6
  /-- `frame` (R19) -/
  frame : BitVec 8
  /-- `ready` (R20) -/
  ready : Bool
deriving DecidableEq, Repr

/-- The one-deep RC edge latch and its overrun mark (R21, R22). -/
structure Latch where
  /-- `lat_ts` -/
  ts : Tick
  /-- `lat_lvl` -/
  lvl : Bool
  /-- `lat_pend` -/
  pend : Bool
  /-- `rc_ovr`, sticky -/
  ovr : Bool
deriving DecidableEq, Repr

/-- Mode Arbiter registers (R24 to R27). -/
structure Arbiter where
  /-- `prev_cmd` (R24) -/
  prevCmd : Command
  /-- `auto_toggle` (R25) -/
  autoToggle : Bool
  /-- `auto_eff` (R26) -/
  autoEff : Bool
  /-- `sys_mode` (R26) -/
  sysMode : SysMode
  /-- `motor_cmd` (R27) -/
  motorCmd : MotorCmd
  /-- `search_en` (R27) -/
  searchEn : Bool
  /-- `pull` (R27) -/
  pull : Bool
deriving DecidableEq, Repr

/-- Input registers (R28), in port order. -/
structure Inputs where
  /-- `in_mode_sel`, port 0 -/
  modeSel : Bool
  /-- `in_man_trig`, port 1 -/
  manTrig : Bool
  /-- `in_auto_pull`, port 2 -/
  autoPull : Bool
  /-- `in_target`, port 3 -/
  target : Bool
  /-- `in_evade_cmd`, port 4 -/
  evadeCmd : MotorCmd
  /-- `servo_w0`, port 5 -/
  servoW0 : BitVec 16
  /-- `servo_w1`, port 6 -/
  servoW1 : BitVec 16
deriving DecidableEq, Repr

/-- Motor soft-PWM, compare channel 0 (R30). -/
structure MotorPwm where
  /-- `cmp0` -/
  cmp : Tick
  /-- `mot_phase`: true in the high phase -/
  high : Bool
  /-- `motor_en` -/
  en : Bool
deriving DecidableEq, Repr

/-- Servo time-multiplexing, compare channel 1 (R31). -/
structure ServoPwm where
  /-- `cmp1` -/
  cmp : Tick
  /-- `sub_cnt` -/
  subCnt : BitVec 16
  /-- `servo_out0` -/
  out0 : Bool
  /-- `servo_out1` -/
  out1 : Bool
deriving DecidableEq, Repr

/-- The per-sensor record `rs[s]` (R33). -/
structure SensorRec where
  /-- `phase` -/
  phase : Phase
  /-- `probe_sent` -/
  sent : Bool
  /-- `probe_finished` -/
  finished : Bool
  /-- `feedback_received` -/
  feedback : Bool
  /-- `rise_seen` -/
  riseSeen : Bool
  /-- `rise_ts` -/
  riseTs : Tick
  /-- `fall_ts` -/
  fallTs : Tick
deriving DecidableEq, Repr

/-- Ranging Controller registers, compare channel 2 among them (R32 to R35). -/
structure Ranging where
  /-- `cur` (R32) -/
  cur : Sensor
  /-- `rs` (R33) -/
  rs : PerSensor SensorRec
  /-- `cmp2` (R34) -/
  cmp : Tick
  /-- `cmp2_armed` (R34) -/
  armed : Bool
  /-- `obstacle` (R35) -/
  obstacle : Bool
  /-- `obs_sensor` (R35) -/
  obsSensor : Sensor
  /-- `obs_dir` (R35) -/
  obsDir : Config.TurnDir
  /-- `coll` (R35) -/
  coll : PerSensor Bool
deriving DecidableEq, Repr

/-- The whole machine: the build's parameters (R7), the stimuli the environment has yet to present
(R15, R206), and the block state `S` of `spec/10_state.md`. `cfg` and `stream` are the model's own
fields. (DESIGN CHOICE, safe: `notes/assumptions/1.md`, `notes/assumptions/4.md`.) -/
structure State where
  cfg : Config.Params
  stream : List Word
  dec : Decoder
  lat : Latch
  /-- `rc_cmd` (R23) -/
  rcCmd : Command
  arb : Arbiter
  inp : Inputs
  mot : MotorPwm
  srv : ServoPwm
  rng : Ranging
  /-- `ill`, sticky (R36, R102) -/
  ill : Bool
deriving DecidableEq, Repr

/-- No stimulus stops the block (R301, R305, R306), so there is no fault: nobody raises one, and
having none is safe (every stimulus has the next state its rule gives).
(DEDUCED: `notes/assumptions/10.md`.) -/
inductive Fault where
deriving DecidableEq, Repr

/-- Why the model gives an instruction, or a stream, no meaning. -/
inductive Refusal where
  /-- An instruction without a meaning in this model, by the opcode table's mnemonic. Only an arm of
  `exec` may raise it, and none does. Safe: a refusal proves no claim. -/
  | notModelled (mnemonic : String)
  /-- A stream of stimuli with this illegal word in it, its first one (R102, D23, I1). Only `runStream`
  raises it. Safe: no claim about such a stream can be proved. -/
  | illegalStream (w : Word)
deriving DecidableEq, Repr

/-- A sensor record at reset (R37): ProbeOut, every flag 0, both timestamps 0. -/
def SensorRec.atReset : SensorRec :=
  { phase := .probeOut, sent := false, finished := false, feedback := false, riseSeen := false,
    riseTs := 0, fallTs := 0 }

/-- The reset table of R37 for a build `p`, with the stimuli `ws` still to come. -/
def State.initial (p : Config.Params) (ws : List Word) : State where
  cfg := p
  stream := ws
  dec := { state := .reset, tEdge := 0, bitIdx := 0, frame := 0, ready := false }
  lat := { ts := 0, lvl := true, pend := false, ovr := false }
  rcCmd := .stop
  arb :=
    { prevCmd := .stop, autoToggle := false, autoEff := false, sysMode := .init, motorCmd := .mStop,
      searchEn := false, pull := false }
  inp :=
    { modeSel := false, manTrig := false, autoPull := false, target := false, evadeCmd := .mStop,
      servoW0 := 0, servoW1 := 0 }
  mot := { cmp := 0, high := false, en := false }
  srv := { cmp := 0, subCnt := 0, out0 := false, out1 := false }
  rng :=
    { cur := .left,
      rs := { left := SensorRec.atReset, center := SensorRec.atReset, right := SensorRec.atReset },
      cmp := 0, armed := false, obstacle := false, obsSensor := .left, obsDir := .left,
      coll := { left := false, center := false, right := false } }
  ill := false

/-- The machine right after power-on reset (R37, R320): the reset table, for the build's parameters,
with no stimulus presented yet. -/
def State.reset : State := State.initial Config.build []

end Sys2Proof.Machine
end

