-- ==== Sys2Proof/Machine/Operands.lean ====
section
/-!
DEFINITION. Operand forms: tick arithmetic (`spec/00_scope.md` R10, R11), port values
(`spec/44_host_ops.md` R104), frame bits (`spec/40_rc_decoder.md` R48) and the per-sensor records.
-/

namespace Sys2Proof.Machine

/-- `a +16 b` of R10. -/
def tickAdd (a b : Tick) : Tick := a + b

/-- `a -16 b` of R10. -/
def tickSub (a b : Tick) : Tick := a - b

/-- The signed tick difference of R11: the modular difference read as two's complement. -/
def sdiff (new old : Tick) : Int :=
  let u := (tickSub new old).toNat
  if u < 32768 then (u : Int) else (u : Int) - 65536

/-- The one form of threshold test (R11): the signed difference is strictly above the threshold. -/
def exceeds (d : Int) (th : Config.Threshold) : Bool := decide ((th.val : Int) < d)

/-- The value of a boolean port: `val[0]` for val in {0, 1}, nothing outside the range (R104). -/
def boolOfVal (val : BitVec 16) : Option Bool :=
  if val.toNat ≤ 1 then some (val.getLsbD 0) else none

/-- The value of the `EVADE_CMD` port: the motor command coded `val[2:0]` for val in 0..4, nothing
outside the range (R104, codes of R27). -/
def motorCmdOfVal (val : BitVec 16) : Option MotorCmd :=
  match val.toNat with
  | 0 => some .mStop
  | 1 => some .forward
  | 2 => some .backward
  | 3 => some .turnLeft
  | 4 => some .turnRight
  | _ => none

/-- `PayloadBits` as a number (R7). -/
def payloadCount (k : Config.PayloadBits) : Nat :=
  match k with
  | .three => 3
  | .eight => 8

/-- `frame[k] <- b` of R48, for `k` in 0..7. -/
def setFrameBit (f : BitVec 8) (k : Nat) (b : Bool) : BitVec 8 :=
  (f &&& ~~~(1#8 <<< k)) ||| ((BitVec.ofBool b).setWidth 8 <<< k)

/-- Field `s` of a per-sensor register, `rs[s]` or `coll[s]` (R33, R35). -/
def PerSensor.get {α : Type} (r : PerSensor α) (s : Sensor) : α :=
  match s with
  | .left => r.left
  | .center => r.center
  | .right => r.right

/-- The per-sensor register with field `s` replaced. -/
def PerSensor.set {α : Type} (r : PerSensor α) (s : Sensor) (v : α) : PerSensor α :=
  match s with
  | .left => { r with left := v }
  | .center => { r with center := v }
  | .right => { r with right := v }

end Sys2Proof.Machine
end

