-- ==== Sys2Proof/Machine/Flags.lean ====
section
/-!
DEFINITION. Every flag computation of the rules: the block has no condition-code register
(`spec/10_state.md` R38), so each flag is a named test.
-/

namespace Sys2Proof.Machine

/-- `rc_ovr` after an RC edge: set where the previous edge is still pending, and sticky (R40). -/
def overrun (l : Latch) : Bool := l.pend || l.ovr

/-- The silence test of the void check (R58). -/
def silent (p : Config.Params) (now : Tick) (l : Latch) : Bool :=
  exceeds (sdiff now l.ts) p.voidSilence

/-- The class of a data bit from the width of its low phase (R48): long reads 1. -/
def dataBit (p : Config.Params) (d : Int) : Bool := exceeds d p.dataZero

/-- A payload position: `16 <= i` and `i < 16 + PayloadBits` (R48). -/
def isPayload (p : Config.Params) (i : Nat) : Bool :=
  decide (Config.payloadStart ≤ i) && decide (i < Config.payloadStart + payloadCount p.payloadBits)

/-- The Zero rising edge of R82: this command is Zero and the previous one was not. -/
def zeroRising (cmd prev : Command) : Bool := decide (cmd = .zero) && decide (prev ≠ .zero)

/-- `motor_en` at a motor event (R66): high phase, and a command other than MStop. -/
def motorEnable (high : Bool) (cmd : MotorCmd) : Bool := high && decide (cmd ≠ .mStop)

/-- A servo level (R67): the sub-cycle counter is below the channel's width, unsigned. -/
def servoLevel (c w : BitVec 16) : Bool := decide (c.toNat < w.toNat)

/-- An echo edge is taken (R73): the sensor is the current one, in ProbeIn, with no pair yet. -/
def echoTaken (r : Ranging) (s : Sensor) : Bool :=
  decide (s = r.cur) && decide ((r.rs.get s).phase = .probeIn) && !(r.rs.get s).feedback

/-- The trigger timer's event is not spurious (R76). -/
def trigTaken (r : Ranging) : Bool :=
  r.armed && decide ((r.rs.get r.cur).phase = .probeOut) && (r.rs.get r.cur).sent

/-- The collision flag of R77: the signed echo width is above the threshold. -/
def echoHit (p : Config.Params) (x : SensorRec) : Bool :=
  exceeds (sdiff x.fallTs x.riseTs) p.collision

end Sys2Proof.Machine
end

