-- ==== Sys2Proof/Machine/Ops.lean ====
section
/-!
DEFINITION. The named operations over the state: one update per register record, taking the block's
one exception, resetting, and taking the next stimulus from the stream.
-/

namespace Sys2Proof.Machine

def State.setStream (s : State) (ws : List Word) : State := { s with stream := ws }
def State.setDec (s : State) (d : Decoder) : State := { s with dec := d }
def State.setLat (s : State) (l : Latch) : State := { s with lat := l }
def State.setRcCmd (s : State) (c : Command) : State := { s with rcCmd := c }
def State.setArb (s : State) (a : Arbiter) : State := { s with arb := a }
def State.setInp (s : State) (x : Inputs) : State := { s with inp := x }
def State.setMot (s : State) (m : MotorPwm) : State := { s with mot := m }
def State.setSrv (s : State) (v : ServoPwm) : State := { s with srv := v }
def State.setRng (s : State) (r : Ranging) : State := { s with rng := r }

/-- Taking ILLEGAL_STIMULUS, the block's only exception (`spec/44_host_ops.md` R102,
`spec/60_exceptions.md` R300, R305): the sticky `ill` is set and nothing else changes. No word is
recorded, nothing is saved or vectored, so there is no return from it.
(How a model answers a whole stream with such a word: `notes/assumptions/3.md`.) -/
def raiseIllegal (s : State) : State := { s with ill := true }

/-- Every field of `S` at its reset value (R37, R105). The parameters are not state (R7) and the
stimuli still to come are the environment's (R15): both stay. -/
def resetBlock (s : State) : State := State.initial s.cfg s.stream

/-- The next stimulus word of the stream and the state without it; nothing where the environment has
presented none. -/
def fetch (s : State) : Option (Word × State) :=
  match s.stream with
  | [] => none
  | w :: ws => some (w, s.setStream ws)

/-- The environment presents `w` before the stimuli still to come. -/
def present (s : State) (w : Word) : State := s.setStream (w :: s.stream)

end Sys2Proof.Machine
end

