-- ==== Sys2Proof/Machine/Arbiter.lean ====
section
/-!
DEFINITION. The Mode Arbiter of `spec/43_mode_arbiter.md`: the POLL sub-step `ArbiterStep`.
-/

namespace Sys2Proof.Machine

/-- `auto_toggle` after a POLL (R82). -/
def nextToggle (cmd : Command) (a : Arbiter) : Bool :=
  if zeroRising cmd a.prevCmd then !a.autoToggle else a.autoToggle

/-- The effective mode (R83). -/
def effectiveMode (m : Config.ModeSource) (toggle modeSel : Bool) : Bool :=
  match m with
  | .rcToggle => toggle
  | .selectorPin => modeSel

/-- SystemMode (R84). -/
def systemMode (eff target : Bool) : SysMode :=
  match eff, target with
  | false, _ => .manual
  | true, true => .engaged
  | true, false => .searching

/-- `ManualMap(cmd)` (R86). -/
def manualMap (cmd : Command) : MotorCmd :=
  match cmd with
  | .stop => .mStop
  | .up => .forward
  | .down => .backward
  | .left => .turnLeft
  | .right => .turnRight
  | .ok => .mStop
  | .zero => .mStop

/-- The motor command (R85). -/
def selectMotor (eff : Bool) (evade : MotorCmd) (cmd : Command) : MotorCmd :=
  if eff then evade else manualMap cmd

/-- The effective pull condition (R88). -/
def effectivePull (eff autoPull manTrig : Bool) : Bool := if eff then autoPull else manTrig

/-- `ArbiterStep`: R82 to R88 in order, on the command of this POLL. -/
def arbiterStep (p : Config.Params) (x : Inputs) (cmd : Command) (a : Arbiter) : Arbiter :=
  let toggle := nextToggle cmd a
  let eff := effectiveMode p.modeSource toggle x.modeSel
  { prevCmd := cmd
    autoToggle := toggle
    autoEff := eff
    sysMode := systemMode eff x.target
    motorCmd := selectMotor eff x.evadeCmd cmd
    searchEn := eff
    pull := effectivePull eff x.autoPull x.manTrig }

end Sys2Proof.Machine
end

