-- ==== Sys2Proof/Machine/RangingCtl.lean ====
section
/-!
DEFINITION. The Ranging Controller of `spec/42_ranging.md`: echo edges, the trigger timer, and the
POLL sub-step `RangingStep`.
-/

namespace Sys2Proof.Machine

/-- An edge of a sensor that waits for its echo (R73): a rising edge replaces `rise_ts`; a falling
edge counts only after a rising one. -/
def captureEcho (lvl : Bool) (ts : Tick) (x : SensorRec) : SensorRec :=
  if lvl then { x with riseTs := ts, riseSeen := true }
  else if x.riseSeen then { x with fallTs := ts, feedback := true }
  else x

/-- `ECHO_EDGE s, lvl, ts` (R73): every other edge is ignored. -/
def echoEdge (s : Sensor) (lvl : Bool) (ts : Tick) (r : Ranging) : Ranging :=
  if echoTaken r s then { r with rs := r.rs.set s (captureEcho lvl ts (r.rs.get s)) } else r

/-- `ECHO_EDGE.L` (R73). -/
def execEchoEdgeL (lvl : Bool) (ts : Tick) (s : State) : Host.Outcome State Fault Refusal :=
  .next (s.setRng (echoEdge .left lvl ts s.rng))

/-- `ECHO_EDGE.C` (R73). -/
def execEchoEdgeC (lvl : Bool) (ts : Tick) (s : State) : Host.Outcome State Fault Refusal :=
  .next (s.setRng (echoEdge .center lvl ts s.rng))

/-- `ECHO_EDGE.R` (R73). -/
def execEchoEdgeR (lvl : Bool) (ts : Tick) (s : State) : Host.Outcome State Fault Refusal :=
  .next (s.setRng (echoEdge .right lvl ts s.rng))

/-- A sensor whose trigger pulse has ended: the line is an input and no edge is captured (R76). -/
def beginListen (x : SensorRec) : SensorRec :=
  { x with phase := .probeIn, riseSeen := false, feedback := false }

/-- The trigger-width timer has expired (R76); a spurious event is ignored. -/
def trigEvent (r : Ranging) : Ranging :=
  if trigTaken r then
    { r with rs := r.rs.set r.cur (beginListen (r.rs.get r.cur)), armed := false }
  else r

/-- `CMP_MATCH.TRIG` (R76). -/
def execCmpMatchTrig (_tick : Tick) (s : State) : Host.Outcome State Fault Refusal :=
  .next (s.setRng (trigEvent s.rng))

/-- `Fire(s, now)` (R75). -/
def fire (p : Config.Params) (now : Tick) (s : Sensor) (r : Ranging) : Ranging :=
  { r with
    rs := r.rs.set s { r.rs.get s with sent := true }
    cmp := tickAdd now p.trigWidthTicks.ticks
    armed := true }

/-- `Dir(s)` (R79). -/
def turnDir (p : Config.Params) (s : Sensor) : Config.TurnDir :=
  match s with
  | .left => .right
  | .right => .left
  | .center => p.centerTurnDir

/-- `Classify(s)` (R77). -/
def classify (p : Config.Params) (s : Sensor) (r : Ranging) : Ranging :=
  let hit := echoHit p (r.rs.get s)
  let done :=
    { r with
      coll := r.coll.set s hit
      rs := r.rs.set s { r.rs.get s with finished := true } }
  if hit then { done with obstacle := true, obsSensor := s, obsDir := turnDir p s } else done

/-- The round-robin order Left, Center, Right, Left (R70, R78). -/
def nextSensor (s : Sensor) : Sensor :=
  match s with
  | .left => .center
  | .center => .right
  | .right => .left

/-- A sensor record at the start of its probe (R78); its two timestamps are kept. -/
def freshProbe (x : SensorRec) : SensorRec :=
  { x with
    phase := .probeOut, sent := false, finished := false, feedback := false, riseSeen := false }

/-- `Advance(s)` (R78). -/
def advance (s : Sensor) (r : Ranging) : Ranging :=
  let n := nextSensor s
  { r with cur := n, rs := r.rs.set n (freshProbe (r.rs.get n)) }

/-- The one action of a POLL for the current sensor (R71, R74). -/
def rangingAction (p : Config.Params) (now : Tick) (r : Ranging) : Ranging :=
  match (r.rs.get r.cur).phase with
  | .probeOut => if (r.rs.get r.cur).sent then r else fire p now r.cur r
  | .probeIn =>
    if (r.rs.get r.cur).finished then advance r.cur r
    else if (r.rs.get r.cur).feedback then classify p r.cur r
    else r

/-- `RangingStep(now)` (R71): the hand-off pulse is cleared, then one action. -/
def rangingStep (p : Config.Params) (now : Tick) (r : Ranging) : Ranging :=
  rangingAction p now { r with obstacle := false }

end Sys2Proof.Machine
end

