-- ==== Sys2Proof/Machine/RcDecoder.lean ====
section
/-!
DEFINITION. The RC Decoder of `spec/40_rc_decoder.md`: the RC_EDGE stimulus, the decoder step, the
void check and the command lookup.
-/

namespace Sys2Proof.Machine

/-- R40: the edge is latched; an edge still pending is overwritten and marked in `rc_ovr`. -/
def execRcEdge (lvl : Bool) (ts : Tick) (s : State) : Host.Outcome State Fault Refusal :=
  .next (s.setLat { ts := ts, lvl := lvl, pend := true, ovr := overrun s.lat })

/-- `EnterReset` (R42). -/
def enterReset (d : Decoder) : Decoder :=
  { d with state := .reset, bitIdx := 0, frame := 0, ready := false }

/-- `NewSession` (R43). -/
def newSession (d : Decoder) : Decoder :=
  { d with state := .recvFall, bitIdx := 0, frame := 0, ready := false }

/-- `BitCapture` (R48) on a low phase of width `w`. -/
def bitCapture (p : Config.Params) (w : Int) (d : Decoder) : Decoder :=
  let i := d.bitIdx.toNat
  let frame :=
    if isPayload p i then setFrameBit d.frame (i - Config.payloadStart) (dataBit p w) else d.frame
  let counted := { d with frame := frame, bitIdx := d.bitIdx + 1 }
  if i + 1 = Config.frameBits then { counted with ready := true, state := .contRise2 }
  else { counted with state := .recvRise }

/-- The rule of the current `dec_state` for an edge to level `lvl` that ends a phase of width `w`
(R44 to R53). -/
def decRule (p : Config.Params) (w : Int) (lvl : Bool) (d : Decoder) : Decoder :=
  match d.state with
  | .reset => if lvl then d else { d with state := .startFall }
  | .startFall =>
    if lvl then
      if exceeds w p.startLow then { d with state := .startRise } else enterReset d
    else enterReset d
  | .startRise =>
    if lvl then enterReset d
    else if exceeds w p.startIdle then newSession d
    else enterReset d
  | .recvFall => if lvl then bitCapture p w d else enterReset d
  | .recvRise => if lvl then enterReset d else { d with state := .recvFall }
  | .contRise2 => if lvl then d else { d with state := .contFall1 }
  | .contFall1 =>
    if lvl then
      if exceeds w p.startLow then { d with state := .contRise1 }
      else { d with state := .contFall2 }
    else { d with state := .contFall2 }
  | .contRise1 =>
    if lvl then { d with state := .contFall2 }
    else if exceeds w p.startIdle then newSession d
    else if exceeds w p.contIdle then { d with state := .contFall2 }
    else enterReset d
  | .contFall2 => if lvl then { d with state := .contRise2 } else { d with state := .contFall1 }

/-- `DecStep(ts, lvl)` (R41, R54): one state rule on the phase width, then `t_edge`. -/
def decStep (p : Config.Params) (ts : Tick) (lvl : Bool) (d : Decoder) : Decoder :=
  { decRule p (sdiff ts d.tEdge) lvl d with tEdge := ts }

/-- `VoidCheck(now)` (R58). -/
def voidCheck (p : Config.Params) (now : Tick) (l : Latch) (d : Decoder) : Decoder :=
  if silent p now l then enterReset d else d

/-- `Lookup(ready, frame)` (R59): frame bits are read only while `ready` is set (R61). -/
def lookup (ready : Bool) (frame : BitVec 8) : Command :=
  match ready, frame.getLsbD 0, frame.getLsbD 1, frame.getLsbD 2 with
  | false, _, _, _ => .stop
  | true, true, true, _ => .right
  | true, true, false, _ => .down
  | true, false, true, true => .up
  | true, false, true, false => .zero
  | true, false, false, true => .left
  | true, false, false, false => .ok

end Sys2Proof.Machine
end

