-- ==== Sys2Proof/Machine/Scheduler.lean ====
section
/-!
DEFINITION. The Output Scheduler of `spec/41_output_scheduler.md`. The TICK operand of a compare
match is carried by the word and not read (`spec/30_encoding.md` R226).
-/

namespace Sys2Proof.Machine

/-- One compare match on channel 0 (R66). -/
def motorEvent (p : Config.Params) (cmd : MotorCmd) (m : MotorPwm) : MotorPwm :=
  let high := !m.high
  let ticks := if m.high then p.motorLowTicks.ticks else p.motorHighTicks.ticks
  { cmp := tickAdd m.cmp ticks, high := high, en := motorEnable high cmd }

/-- `CMP_MATCH.MOTOR` (R66). -/
def execCmpMatchMotor (_tick : Tick) (s : State) : Host.Outcome State Fault Refusal :=
  .next (s.setMot (motorEvent s.cfg s.arb.motorCmd s.mot))

/-- The sub-cycle counter after an event (R67): 0 after `TotalWidth - 1`. -/
def nextSubCnt (p : Config.Params) (c : BitVec 16) : BitVec 16 :=
  if c + 1 = p.totalWidth.ticks then 0 else c + 1

/-- One compare match on channel 1 (R67): the levels from the counter, then its advance. -/
def servoEvent (p : Config.Params) (x : Inputs) (v : ServoPwm) : ServoPwm :=
  { cmp := tickAdd v.cmp p.servoSubTicks.ticks
    subCnt := nextSubCnt p v.subCnt
    out0 := servoLevel v.subCnt x.servoW0
    out1 := servoLevel v.subCnt x.servoW1 }

/-- `CMP_MATCH.SERVO` (R67). -/
def execCmpMatchServo (_tick : Tick) (s : State) : Host.Outcome State Fault Refusal :=
  .next (s.setSrv (servoEvent s.cfg s.inp s.srv))

end Sys2Proof.Machine
end

