-- ==== Sys2Proof/Machine/HostOps.lean ====
section
/-!
DEFINITION. POLL, SET_IN and RESET of `spec/44_host_ops.md`.
-/

namespace Sys2Proof.Machine

/-- The pending edge, if any, is stepped and consumed (R103, R41). -/
def consumeEdge (s : State) : State :=
  if s.lat.pend then
    (s.setDec (decStep s.cfg s.lat.ts s.lat.lvl s.dec)).setLat { s.lat with pend := false }
  else s

def pollVoid (now : Tick) (s : State) : State := s.setDec (voidCheck s.cfg now s.lat s.dec)

def pollLookup (s : State) : State := s.setRcCmd (lookup s.dec.ready s.dec.frame)

def pollArbiter (s : State) : State := s.setArb (arbiterStep s.cfg s.inp s.rcCmd s.arb)

def pollRanging (now : Tick) (s : State) : State := s.setRng (rangingStep s.cfg now s.rng)

/-- `POLL now` (R103): the five sub-steps in the rule's order. -/
def execPoll (now : Tick) (s : State) : Host.Outcome State Fault Refusal :=
  .next (pollRanging now (pollArbiter (pollLookup (pollVoid now (consumeEdge s)))))

/-- A port write (R104): the register takes the value where the port accepts it; a value outside the
port's range is illegal (R102) and the port keeps its value. -/
def writePort {α : Type} (v : Option α) (put : α → Inputs) (s : State) : State :=
  match v with
  | some a => s.setInp (put a)
  | none => raiseIllegal s

/-- `SET_IN MODE_SEL` (R104, port 0). -/
def execSetInModeSel (val : BitVec 16) (s : State) : Host.Outcome State Fault Refusal :=
  .next (writePort (boolOfVal val) (fun b => { s.inp with modeSel := b }) s)

/-- `SET_IN MAN_TRIG` (R104, port 1). -/
def execSetInManTrig (val : BitVec 16) (s : State) : Host.Outcome State Fault Refusal :=
  .next (writePort (boolOfVal val) (fun b => { s.inp with manTrig := b }) s)

/-- `SET_IN AUTO_PULL` (R104, port 2). -/
def execSetInAutoPull (val : BitVec 16) (s : State) : Host.Outcome State Fault Refusal :=
  .next (writePort (boolOfVal val) (fun b => { s.inp with autoPull := b }) s)

/-- `SET_IN TARGET` (R104, port 3). -/
def execSetInTarget (val : BitVec 16) (s : State) : Host.Outcome State Fault Refusal :=
  .next (writePort (boolOfVal val) (fun b => { s.inp with target := b }) s)

/-- `SET_IN EVADE_CMD` (R104, port 4). -/
def execSetInEvadeCmd (val : BitVec 16) (s : State) : Host.Outcome State Fault Refusal :=
  .next (writePort (motorCmdOfVal val) (fun c => { s.inp with evadeCmd := c }) s)

/-- `SET_IN SERVO_W0` (R104, port 5): any value. -/
def execSetInServoW0 (val : BitVec 16) (s : State) : Host.Outcome State Fault Refusal :=
  .next (writePort (some val) (fun w => { s.inp with servoW0 := w }) s)

/-- `SET_IN SERVO_W1` (R104, port 6): any value. -/
def execSetInServoW1 (val : BitVec 16) (s : State) : Host.Outcome State Fault Refusal :=
  .next (writePort (some val) (fun w => { s.inp with servoW1 := w }) s)

/-- `RESET` (R105). -/
def execReset (s : State) : Host.Outcome State Fault Refusal :=
  .next (resetBlock s)

end Sys2Proof.Machine
end

