-- ==== Sys2Proof/Machine/Dispatch.lean ====
section
/-!
DEFINITION. Dispatch of a stimulus to its rule (`spec/44_host_ops.md` R101).
-/

namespace Sys2Proof.Machine

def exec (i : Instr) (s : State) : Host.Outcome State Fault Refusal :=
  match i with
  | .rcEdge lvl ts => Sys2Proof.Machine.execRcEdge lvl ts s
  | .echoEdgeL lvl ts => Sys2Proof.Machine.execEchoEdgeL lvl ts s
  | .echoEdgeC lvl ts => Sys2Proof.Machine.execEchoEdgeC lvl ts s
  | .echoEdgeR lvl ts => Sys2Proof.Machine.execEchoEdgeR lvl ts s
  | .cmpMatchMotor tick => Sys2Proof.Machine.execCmpMatchMotor tick s
  | .cmpMatchServo tick => Sys2Proof.Machine.execCmpMatchServo tick s
  | .cmpMatchTrig tick => Sys2Proof.Machine.execCmpMatchTrig tick s
  | .poll now => Sys2Proof.Machine.execPoll now s
  | .setInModeSel val => Sys2Proof.Machine.execSetInModeSel val s
  | .setInManTrig val => Sys2Proof.Machine.execSetInManTrig val s
  | .setInAutoPull val => Sys2Proof.Machine.execSetInAutoPull val s
  | .setInTarget val => Sys2Proof.Machine.execSetInTarget val s
  | .setInEvadeCmd val => Sys2Proof.Machine.execSetInEvadeCmd val s
  | .setInServoW0 val => Sys2Proof.Machine.execSetInServoW0 val s
  | .setInServoW1 val => Sys2Proof.Machine.execSetInServoW1 val s
  | .reset => Sys2Proof.Machine.execReset s

end Sys2Proof.Machine
end

