-- ==== Sys2Proof/Machine/Step.lean ====
section
/-!
DEFINITION. One step: application of the next stimulus (`spec/44_host_ops.md` R100).
-/

namespace Sys2Proof.Machine

/-- The next stimulus is decoded, and either its row's rule or `Illegal` (R102) is performed: this is
the block's own transition. That a model refuses a whole stream with an illegal word is `runStream`
(`Machine/Stream.lean`; DESIGN CHOICE, unsafe: `notes/assumptions/3.md`). With
no stimulus presented the block waits (`spec/20_memory.md` R201): the state stays as it is.
(DEDUCED, safe: `notes/assumptions/2.md`.) -/
def step (s : State) : Host.Outcome State Fault Refusal :=
  match fetch s with
  | none => .next s
  | some (w, s') =>
    match decode w with
    | .ok i => exec i s'
    | .error _ => .next (raiseIllegal s')

/-- The environment presents this word next. A word of another width than 32 is not a stimulus (R204):
there is nothing to present. (DEDUCED, safe: `notes/assumptions/9.md`.) -/
def State.withFetchWord (s : State) (nbits w : Nat) : State :=
  match tableWord nbits w with
  | some x => present s x
  | none => s

end Sys2Proof.Machine
end

