-- ==== Sys2Proof/Machine/Assembler.lean ====
section
/-!
DEFINITION. The assembly syntax, pseudo-instructions and macros of `spec/30_encoding.md` rules R227 to
R229: what one line of text stands for. Nothing in the machine reads it. What R227 leaves open about
the text itself is fixed here. (DESIGN CHOICE, safe: `notes/assumptions/11.md`.)
-/

namespace Sys2Proof.Machine

/-- What a line stands for: one stimulus (R227, R228), or a macro of R229. -/
inductive AsmLine where
  | stimulus (i : Instr)
  | rcStart (t lo hi : Tick)
  | rcBit (t w g : Tick)
deriving DecidableEq, Repr

/-- Why a line is not of a form of R227 to R229. -/
inductive AsmError where
  | unknownMnemonic
  | badOperands
  | badNumber
deriving DecidableEq, Repr

/-- The stimuli of one low phase that starts at `t` and lasts `w` ticks, a POLL after each edge: the
expansion shared by both macros of R229. -/
def lowPhase (t w : Tick) : List Instr :=
  [.rcEdge false t, .poll t, .rcEdge true (t + w), .poll (t + w)]

/-- The stimuli of a line. The last operand of a macro adds no stimulus: it places the next falling
edge, at `nextFall`. -/
def AsmLine.expand (l : AsmLine) : List Instr :=
  match l with
  | .stimulus i => [i]
  | .rcStart t lo _ => lowPhase t lo
  | .rcBit t w _ => lowPhase t w

/-- Where the next `RCBIT` starts after a macro of R229. -/
def nextFall (t w g : Tick) : Tick := t + w + g

/-! ## Text -/

/-- A piece of a line: a word, or the comma between two operands. -/
inductive Tok where
  | comma
  | word (cs : List Char)
deriving DecidableEq, Repr

/-- The word being read (its characters reversed), if any, before the pieces that follow it. -/
def flushWord (acc : List Char) (rest : List Tok) : List Tok :=
  match acc with
  | [] => rest
  | c :: cs => .word (c :: cs).reverse :: rest

/-- The pieces of a line; `;` ends it (R227). -/
def tokens (cs acc : List Char) : List Tok :=
  match cs with
  | [] => flushWord acc []
  | c :: rest =>
    if c = ';' then flushWord acc []
    else if c = ',' then flushWord acc (.comma :: tokens rest [])
    else if c = ' ' ∨ c = '\t' then flushWord acc (tokens rest [])
    else tokens rest (c :: acc)

/-- The operands after the first one, each behind a comma. -/
def moreOperands (ts : List Tok) : Option (List (List Char)) :=
  match ts with
  | [] => some []
  | .comma :: .word w :: rest => (moreOperands rest).map (w :: ·)
  | _ => none

/-- Operands separated by commas. -/
def operands (ts : List Tok) : Option (List (List Char)) :=
  match ts with
  | [] => some []
  | .word w :: rest => (moreOperands rest).map (w :: ·)
  | .comma :: _ => none

def digitValue (c : Char) : Option Nat :=
  let n := c.toNat
  if 48 ≤ n ∧ n ≤ 57 then some (n - 48)
  else if 97 ≤ n ∧ n ≤ 102 then some (n - 87)
  else if 65 ≤ n ∧ n ≤ 70 then some (n - 55)
  else none

def digitsValue (base : Nat) (cs : List Char) (acc : Nat) : Option Nat :=
  match cs with
  | [] => some acc
  | c :: rest =>
    match digitValue c with
    | none => none
    | some d => if d < base then digitsValue base rest (acc * base + d) else none

/-- A number: decimal, or hexadecimal behind `0x` (R227). -/
def numberValue (cs : List Char) : Option Nat :=
  match cs with
  | [] => none
  | '0' :: 'x' :: d :: rest => digitsValue 16 (d :: rest) 0
  | c :: rest => digitsValue 10 (c :: rest) 0

/-- A number that fits the 16 low bits of the word. -/
def tickOperand (cs : List Char) : Except AsmError Tick :=
  match numberValue cs with
  | some n => if n < 65536 then .ok (BitVec.ofNat 16 n) else .error .badNumber
  | none => .error .badNumber

/-- A level operand: 0 or 1. -/
def levelOperand (cs : List Char) : Except AsmError Bool :=
  match numberValue cs with
  | some 0 => .ok false
  | some 1 => .ok true
  | _ => .error .badNumber

/-- A port value; `EVADE_CMD` may name it (R227). -/
def evadeOperand (cs : List Char) : Except AsmError Tick :=
  if cs = "MSTOP".toList then .ok 0
  else if cs = "FORWARD".toList then .ok 1
  else if cs = "BACKWARD".toList then .ok 2
  else if cs = "TURNLEFT".toList then .ok 3
  else if cs = "TURNRIGHT".toList then .ok 4
  else tickOperand cs

/-- An `ECHO_EDGE` of the sensor named L, C or R. -/
def echoLine (sensor : List Char) (lvl : Bool) (ts : Tick) : Except AsmError AsmLine :=
  if sensor = ['L'] then .ok (.stimulus (.echoEdgeL lvl ts))
  else if sensor = ['C'] then .ok (.stimulus (.echoEdgeC lvl ts))
  else if sensor = ['R'] then .ok (.stimulus (.echoEdgeR lvl ts))
  else .error .badOperands

/-- A `CMP_MATCH` of the named channel. -/
def cmpLine (channel : List Char) (tick : Tick) : Except AsmError AsmLine :=
  if channel = "MOTOR".toList then .ok (.stimulus (.cmpMatchMotor tick))
  else if channel = "SERVO".toList then .ok (.stimulus (.cmpMatchServo tick))
  else if channel = "TRIG".toList then .ok (.stimulus (.cmpMatchTrig tick))
  else .error .badOperands

/-- A `SET_IN` of the named port. A value outside the port's range is assembled into the illegal
word it stands for, as program P5 of `spec/95_test_vectors.md` does. -/
def setInLine (port val : List Char) : Except AsmError AsmLine :=
  if port = "MODE_SEL".toList then (tickOperand val).map (.stimulus ∘ .setInModeSel)
  else if port = "MAN_TRIG".toList then (tickOperand val).map (.stimulus ∘ .setInManTrig)
  else if port = "AUTO_PULL".toList then (tickOperand val).map (.stimulus ∘ .setInAutoPull)
  else if port = "TARGET".toList then (tickOperand val).map (.stimulus ∘ .setInTarget)
  else if port = "EVADE_CMD".toList then (evadeOperand val).map (.stimulus ∘ .setInEvadeCmd)
  else if port = "SERVO_W0".toList then (tickOperand val).map (.stimulus ∘ .setInServoW0)
  else if port = "SERVO_W1".toList then (tickOperand val).map (.stimulus ∘ .setInServoW1)
  else .error .badOperands

/-- A stimulus with one tick operand. -/
def tickLine (make : Tick → Instr) (ops : List (List Char)) : Except AsmError AsmLine :=
  match ops with
  | [t] => (tickOperand t).map (.stimulus ∘ make)
  | _ => .error .badOperands

/-- A stimulus without operands. -/
def plainLine (i : Instr) (ops : List (List Char)) : Except AsmError AsmLine :=
  match ops with
  | [] => .ok (.stimulus i)
  | _ => .error .badOperands

/-- A stimulus with a level and a tick. -/
def edgeLine (make : Bool → Tick → Except AsmError AsmLine) (lvl ts : List Char) :
    Except AsmError AsmLine :=
  match levelOperand lvl, tickOperand ts with
  | .ok l, .ok t => make l t
  | .error e, _ => .error e
  | _, .error e => .error e

/-- A macro with three tick operands. -/
def macroLine (make : Tick → Tick → Tick → AsmLine) (ops : List (List Char)) :
    Except AsmError AsmLine :=
  match ops with
  | [a, b, c] =>
    match tickOperand a, tickOperand b, tickOperand c with
    | .ok x, .ok y, .ok z => .ok (make x y z)
    | _, _, _ => .error .badNumber
  | _ => .error .badOperands

/-- The forms of R227, R228 and R229. -/
def lineOf (head : List Char) (ops : List (List Char)) : Except AsmError AsmLine :=
  if head = "RC_EDGE".toList then
    match ops with
    | [l, t] => edgeLine (fun l t => .ok (.stimulus (.rcEdge l t))) l t
    | _ => .error .badOperands
  else if head = "ECHO_EDGE".toList then
    match ops with
    | [s, l, t] => edgeLine (echoLine s) l t
    | _ => .error .badOperands
  else if head = "CMP_MATCH".toList then
    match ops with
    | [c] => cmpLine c 0
    | [c, t] => (tickOperand t).bind (cmpLine c)
    | _ => .error .badOperands
  else if head = "POLL".toList then tickLine .poll ops
  else if head = "SET_IN".toList then
    match ops with
    | [p, v] => setInLine p v
    | _ => .error .badOperands
  else if head = "RESET".toList then plainLine .reset ops
  else if head = "RC_FALL".toList then tickLine (.rcEdge false) ops
  else if head = "RC_RISE".toList then tickLine (.rcEdge true) ops
  else if head = "ECHO_RISE".toList then
    match ops with
    | [s, t] => (tickOperand t).bind (echoLine s true)
    | _ => .error .badOperands
  else if head = "ECHO_FALL".toList then
    match ops with
    | [s, t] => (tickOperand t).bind (echoLine s false)
    | _ => .error .badOperands
  else if head = "CMP_MOTOR".toList then plainLine (.cmpMatchMotor 0) ops
  else if head = "CMP_SERVO".toList then plainLine (.cmpMatchServo 0) ops
  else if head = "CMP_TRIG".toList then plainLine (.cmpMatchTrig 0) ops
  else if head = "RCSTART".toList then macroLine .rcStart ops
  else if head = "RCBIT".toList then macroLine .rcBit ops
  else .error .unknownMnemonic

/-- A line of text: nothing for a line without a stimulus. -/
def parseLine (cs : List Char) : Except AsmError (Option AsmLine) :=
  match tokens cs [] with
  | [] => .ok none
  | .comma :: _ => .error .badOperands
  | .word head :: rest =>
    match operands rest with
    | none => .error .badOperands
    | some ops => (lineOf head ops).map some

/-- The words of a line of text. -/
def assembleLine (text : String) : Except AsmError (List Word) :=
  match parseLine text.toList with
  | .ok none => .ok []
  | .ok (some l) => .ok (l.expand.map encode)
  | .error e => .error e

end Sys2Proof.Machine
end

