-- ==== Sys2Proof/Machine/Outputs.lean ====
section
/-!
DEFINITION. The output ports of `spec/10_state.md` rule R36: functions of the state, with the numeric
codes of R16, R23, R26, R27, R32 and R35.
-/

namespace Sys2Proof.Machine

/-- Codes of R16. -/
def decStateCode (d : DecState) : BitVec 4 :=
  match d with
  | .reset => 0
  | .startFall => 1
  | .startRise => 2
  | .recvFall => 3
  | .recvRise => 4
  | .contFall1 => 5
  | .contRise1 => 6
  | .contFall2 => 7
  | .contRise2 => 8

/-- Codes of R23. -/
def commandCode (c : Command) : BitVec 3 :=
  match c with
  | .stop => 0
  | .up => 1
  | .down => 2
  | .left => 3
  | .right => 4
  | .ok => 5
  | .zero => 6

/-- Codes of R27. -/
def motorCmdCode (c : MotorCmd) : BitVec 3 :=
  match c with
  | .mStop => 0
  | .forward => 1
  | .backward => 2
  | .turnLeft => 3
  | .turnRight => 4

/-- Codes of R26. -/
def sysModeCode (m : SysMode) : BitVec 2 :=
  match m with
  | .init => 0
  | .manual => 1
  | .searching => 2
  | .engaged => 3

/-- Codes of R32. -/
def sensorCode (s : Sensor) : BitVec 2 :=
  match s with
  | .left => 0
  | .center => 1
  | .right => 2

/-- The `obs_dir` line of R35: 0 is Left, 1 is Right. -/
def turnDirLine (d : Config.TurnDir) : Bool :=
  match d with
  | .left => false
  | .right => true

/-- The ports of R36, in its order. -/
structure Outputs where
  motorEnA : Bool
  motorEnB : Bool
  motorCmdOut : BitVec 3
  servo0 : Bool
  servo1 : Bool
  trigOe : PerSensor Bool
  trigOut : PerSensor Bool
  cmp0 : Tick
  cmp1 : Tick
  cmp2 : Tick
  cmp2Armed : Bool
  status : BitVec 2
  modeSelOut : Bool
  searchEn : Bool
  pull : Bool
  obstacle : Bool
  obsSensor : BitVec 2
  obsDir : Bool
  coll : PerSensor Bool
  rcCmd : BitVec 3
  rcReady : Bool
  rcFrame : BitVec 8
  rcState : BitVec 4
  ill : Bool
  rcOvr : Bool
deriving DecidableEq, Repr

/-- `trig_oe[s]`: the current sensor's line is driven while it is in ProbeOut. -/
def trigOe (r : Ranging) (s : Sensor) : Bool :=
  decide (s = r.cur) && decide ((r.rs.get s).phase = .probeOut)

/-- `trig_out[s]`: the driven level. -/
def trigOut (r : Ranging) (s : Sensor) : Bool := trigOe r s && (r.rs.get s).sent

/-- One value a sensor, from a function of the sensor. -/
def eachSensor {α : Type} (f : Sensor → α) : PerSensor α :=
  { left := f .left, center := f .center, right := f .right }

/-- The output ports after a stimulus (R36). -/
def outputs (s : State) : Outputs where
  motorEnA := s.mot.en
  motorEnB := s.mot.en
  motorCmdOut := motorCmdCode s.arb.motorCmd
  servo0 := s.srv.out0
  servo1 := s.srv.out1
  trigOe := eachSensor (trigOe s.rng)
  trigOut := eachSensor (trigOut s.rng)
  cmp0 := s.mot.cmp
  cmp1 := s.srv.cmp
  cmp2 := s.rng.cmp
  cmp2Armed := s.rng.armed
  status := sysModeCode s.arb.sysMode
  modeSelOut := s.arb.autoToggle
  searchEn := s.arb.searchEn
  pull := s.arb.pull
  obstacle := s.rng.obstacle
  obsSensor := sensorCode s.rng.obsSensor
  obsDir := turnDirLine s.rng.obsDir
  coll := s.rng.coll
  rcCmd := commandCode s.rcCmd
  rcReady := s.dec.ready
  rcFrame := s.dec.frame
  rcState := decStateCode s.dec.state
  ill := s.ill
  rcOvr := s.lat.ovr

end Sys2Proof.Machine
end

