-- ==== Sys2Proof/Machine/Stream.lean ====
section
/-!
DEFINITION. A stream of stimuli as a whole: the block's run over it, and the model's answer for it, which
refuses a stream that holds an illegal word (`spec/44_host_ops.md` R102, last sentence;
`spec/92_eei_decisions.md` D23; `spec/93_implementation_defined.md` I1, `refuse`).
-/

namespace Sys2Proof.Machine

/-- The state `s` with the stream `ws` to come. -/
def State.facing (s : State) (ws : List Word) : State := s.setStream ws

/-- `n` steps of the machine: the values the block's rules give, `ill` recorded, whatever the words. -/
def run (n : Nat) (s : State) : Host.Outcome State Fault Refusal := Host.Core.run Sys2Proof.core n s

/-- The word is a stimulus (R222). -/
def isLegalWord (w : Word) : Bool := (decode w).toOption.isSome

/-- Every word of the stream is a stimulus. -/
def allLegal (ws : List Word) : Bool := ws.all isLegalWord

/-- The model's answer for a whole stream: it refuses one that holds an illegal word, by the first
such word and before any stimulus is applied, and runs the block over any other.
(DESIGN CHOICE, safe: `notes/assumptions/3.md`.) -/
def runStream (s : State) (ws : List Word) : Host.Outcome State Fault Refusal :=
  match ws.find? (fun w => !isLegalWord w) with
  | some w => .refused (.illegalStream w)
  | none => run ws.length (s.facing ws)

end Sys2Proof.Machine
end

