-- ==== Sys2Proof/Safety.lean ====
section
/-!
DEFINITION. What counts as a good state and a good stream, in the words claims use: the derived
invariants at the end of `spec/10_state.md`, the environment contract of `spec/60_exceptions.md`
R310, and classes of words and stimuli.
-/

namespace Sys2Proof.Machine

/-! ## The invariant -/

/-- The decoder states that hold a complete frame. -/
def holdsFrame (d : DecState) : Bool :=
  match d with
  | .contFall1 | .contRise1 | .contFall2 | .contRise2 => true
  | .reset | .startFall | .startRise | .recvFall | .recvRise => false

/-- The number of data bits received, state by state: none before a session, fewer than 32 during a
frame, 32 after it. -/
def bitCountOk (d : DecState) (n : Nat) : Prop :=
  match d with
  | .reset | .startFall | .startRise => n = 0
  | .recvFall => n < 32
  | .recvRise => 1 ≤ n ∧ n < 32
  | .contFall1 | .contRise1 | .contFall2 | .contRise2 => n = 32

/-- What the decoder registers satisfy between stimuli. -/
structure DecoderInv (p : Config.Params) (d : Decoder) : Prop where
  ready_iff : d.ready = holdsFrame d.state
  bits : bitCountOk d.state d.bitIdx.toNat
  frame_above : ∀ k, payloadCount p.payloadBits ≤ k → d.frame.getLsbD k = false
  frame_later : ∀ k, d.bitIdx.toNat ≤ 16 + k → d.frame.getLsbD k = false

/-- The flags of one sensor record are set in the order of a probe: trigger, listen, rising edge,
pair, classification. -/
structure SensorInv (x : SensorRec) : Prop where
  listen_sent : x.phase = .probeIn → x.sent = true
  rise_listen : x.riseSeen = true → x.phase = .probeIn
  pair_rise : x.feedback = true → x.riseSeen = true
  finished_pair : x.finished = true → x.feedback = true

/-- No probe of this sensor is under way. -/
def SensorRec.quiet (x : SensorRec) : Prop :=
  x.finished = true ∨ (x.phase = .probeOut ∧ x.sent = false)

/-- What the ranging registers satisfy between stimuli. -/
structure RangingInv (p : Config.Params) (r : Ranging) : Prop where
  records : ∀ s, SensorInv (r.rs.get s)
  one_probe : ∀ s, s ≠ r.cur → (r.rs.get s).quiet
  armed_iff : r.armed = true ↔ (r.rs.get r.cur).phase = .probeOut ∧ (r.rs.get r.cur).sent = true
  pulse : r.obstacle = true →
    r.obsSensor = r.cur ∧ (r.rs.get r.cur).finished = true ∧ r.coll.get r.cur = true ∧
      r.obsDir = turnDir p r.cur

/-- What the arbiter registers satisfy between stimuli. -/
structure ArbiterInv (p : Config.Params) (cmd : Command) (a : Arbiter) : Prop where
  prev : a.prevCmd = cmd
  search : a.searchEn = a.autoEff
  toggle_selects : p.modeSource = .rcToggle → a.autoEff = a.autoToggle
  mode_auto : a.autoEff = true ↔ a.sysMode = .searching ∨ a.sysMode = .engaged
  manual_motor : a.autoEff = false → a.motorCmd = manualMap cmd

/-- The invariant of the block: the derived invariants of `spec/10_state.md`, strengthened until
every step keeps them. -/
structure Inv (s : State) : Prop where
  decoder : DecoderInv s.cfg s.dec
  command : s.rcCmd = lookup s.dec.ready s.dec.frame
  arbiter : ArbiterInv s.cfg s.rcCmd s.arb
  motor : s.mot.en = true → s.mot.high = true
  servo : s.srv.subCnt.toNat < s.cfg.totalWidth.ticks.toNat
  ranging : RangingInv s.cfg s.rng

/-! ## Classes of words -/

/-- The word is this stimulus class: a RESET. -/
def isResetWord (w : Word) : Bool := decide ((decode w).toOption = some .reset)

/-- The word is a POLL. -/
def isPollWord (w : Word) : Bool :=
  match decode w with
  | .ok (.poll _) => true
  | _ => false

/-- The word is a `CMP_MATCH.SERVO`. -/
def isServoWord (w : Word) : Bool :=
  match decode w with
  | .ok (.cmpMatchServo _) => true
  | _ => false

/-- The word writes the width of servo channel 0. -/
def isWidth0Word (w : Word) : Bool :=
  match decode w with
  | .ok (.setInServoW0 _) => true
  | _ => false

/-- The word writes the width of servo channel 1. -/
def isWidth1Word (w : Word) : Bool :=
  match decode w with
  | .ok (.setInServoW1 _) => true
  | _ => false

/-- The word is an echo edge of sensor `x` to the level `lvl`. -/
def isEchoWord (x : Sensor) (lvl : Bool) (w : Word) : Bool :=
  match decode w with
  | .ok (.echoEdgeL l _) => decide (x = .left) && l == lvl
  | .ok (.echoEdgeC l _) => decide (x = .center) && l == lvl
  | .ok (.echoEdgeR l _) => decide (x = .right) && l == lvl
  | _ => false

/-- The stream holds no falling echo edge of sensor `x` after a rising one (R324); `risen` says that a
rising one has been seen already. -/
def noEchoPair (x : Sensor) (risen : Bool) (ws : List Word) : Bool :=
  match ws with
  | [] => true
  | w :: rest =>
    !(risen && isEchoWord x false w) && noEchoPair x (risen || isEchoWord x true w) rest

/-! ## Classes of stimuli -/

/-- A main-loop pass. -/
def isPoll (i : Instr) : Bool :=
  match i with
  | .poll _ => true
  | .rcEdge _ _ | .echoEdgeL _ _ | .echoEdgeC _ _ | .echoEdgeR _ _ | .cmpMatchMotor _
  | .cmpMatchServo _ | .cmpMatchTrig _ | .setInModeSel _ | .setInManTrig _ | .setInAutoPull _
  | .setInTarget _ | .setInEvadeCmd _ | .setInServoW0 _ | .setInServoW1 _ | .reset => false

/-- A port write. -/
def isSetIn (i : Instr) : Bool :=
  match i with
  | .setInModeSel _ | .setInManTrig _ | .setInAutoPull _ | .setInTarget _ | .setInEvadeCmd _
  | .setInServoW0 _ | .setInServoW1 _ => true
  | .rcEdge _ _ | .echoEdgeL _ _ | .echoEdgeC _ _ | .echoEdgeR _ _ | .cmpMatchMotor _
  | .cmpMatchServo _ | .cmpMatchTrig _ | .poll _ | .reset => false

/-- The echo edge of a sensor. -/
def echoInstr (x : Sensor) (lvl : Bool) (ts : Tick) : Instr :=
  match x with
  | .left => .echoEdgeL lvl ts
  | .center => .echoEdgeC lvl ts
  | .right => .echoEdgeR lvl ts

/-- One probe of a sensor: the firing POLL, the trigger timer, the echo pair, the classifying POLL. -/
def probeStimuli (x : Sensor) (fireAt trigAt rise fall classifyAt : Tick) : List Instr :=
  [.poll fireAt, .cmpMatchTrig trigAt, echoInstr x true rise, echoInstr x false fall,
    .poll classifyAt]

/-- The data bits of a frame from `t` on, each a low phase and the high phase after it, with a POLL
after every edge (the macro RCBIT of R229). -/
def bitStimuli (t : Tick) (bits : List (Tick × Tick)) : List Instr :=
  match bits with
  | [] => []
  | (w, g) :: rest => lowPhase t w ++ bitStimuli (nextFall t w g) rest

/-- A start pulse of low phase `lo` and idle phase `hi` at `t`, then data bits (the macros RCSTART and
RCBIT of R229). -/
def frameStimuli (t lo hi : Tick) (bits : List (Tick × Tick)) : List Instr :=
  lowPhase t lo ++ bitStimuli (nextFall t lo hi) bits

/-! ## The environment contract of R310 -/

/-- Clauses (a) and (b): the stimulus is presented when the platform's counter reads `counter`. -/
def onTime (counter : Tick) (s : State) (i : Instr) : Bool :=
  match i with
  | .rcEdge _ ts | .echoEdgeL _ ts | .echoEdgeC _ ts | .echoEdgeR _ ts => ts == counter
  | .poll now => now == counter
  | .cmpMatchMotor _ => counter == s.mot.cmp
  | .cmpMatchServo _ => counter == s.srv.cmp
  | .cmpMatchTrig _ => s.rng.armed && counter == s.rng.cmp
  | .setInModeSel _ | .setInManTrig _ | .setInAutoPull _ | .setInTarget _ | .setInEvadeCmd _
  | .setInServoW0 _ | .setInServoW1 _ | .reset => true

/-- Clause (c): two true times, in ticks, are less than 32768 ticks apart, the later one last. -/
def nearTimes (old new : Nat) : Prop := old ≤ new ∧ new - old < 32768

/-- Clause (d): a POLL follows every RC_EDGE before the next RC_EDGE; `waiting` says that an edge
is still unpolled. A RESET clears the latch (R105), so nothing waits after it. -/
def pollsSeparateEdges (waiting : Bool) (ws : List Word) : Bool :=
  match ws with
  | [] => true
  | w :: rest =>
    match decode w with
    | .ok (.rcEdge _ _) => !waiting && pollsSeparateEdges true rest
    | .ok (.poll _) => pollsSeparateEdges false rest
    | .ok .reset => pollsSeparateEdges false rest
    | _ => pollsSeparateEdges waiting rest

/-- The relation of `spec/70_reset_and_hazards.md` R326 that leaves a continuation window. -/
def windowOpen (p : Config.Params) : Bool := decide (p.contIdle < p.startIdle)

end Sys2Proof.Machine
end

