-- ==== Sys2Proof/Certificates/Slice0/Obligations.lean ====
section
/-!
DEFINITION. The statements for the provers. Each `Obligations.<Name>` formalises what its docstring
says of `spec/`; `OBLIGATIONS.json` lists them with the rules they cite.
-/

open Sys2Proof Sys2Proof.Machine

/-- For every well-formed stimulus i, with every operand at every value its encoding admits, decode
(encode i) is i (R223 calls the encoders the inverse of R222). (Derived from 30_encoding.md
section 2 (R222, R223).) -/
def Obligations.DecodeOfEncodeIsTheStimulus : Prop :=
  ∀ i : Instr, i.wellFormed = true → decode (encode i) = .ok i

/-- For every word w, if w decodes to i then i is well formed and encode i is w: no bit of a legal
word is dropped. (Derived from 30_encoding.md section 2 (R222, R223).) -/
def Obligations.EncodeOfDecodeIsTheWord : Prop :=
  ∀ (w : Word) (i : Instr), decode w = .ok i → i.wellFormed = true ∧ encode i = w

/-- For every word: if it decodes to i, exactly one row of the sixteen of R222 matches it by mask,
match and extra constraint, and that row has the mnemonic of i; if it is rejected, no row matches
it. (States R222.) -/
def Obligations.DecodeFollowsTheOpcodeTable : Prop :=
  ∀ w : Word,
    match decode w with
    | .ok i => ∃ r, opcodeTable.filter (fun r => r.matches w) = [r] ∧ r.mnemonic = i.mnemonic
    | .error _ => opcodeTable.filter (fun r => r.matches w) = []

/-- A word is rejected if and only if one of the bullets of R224 holds of its fields (with a value
outside the port range as R222 gives it); and applying a rejected word changes nothing except that
ill is set. (States R224.) -/
def Obligations.IllegalWordsAreExactlyTheListed : Prop :=
  (∀ w : Word, (∃ e, decode w = .error e) ↔
    (opField w = 0 ∨ 7 ≤ (opField w).toNat) ∨
    (opField w = 1 ∧ selField w ≠ 0) ∨
    (opField w = 2 ∧ 3 ≤ (selField w).toNat) ∨
    (opField w = 3 ∧ (3 ≤ (selField w).toNat ∨ lvlField w = true)) ∨
    (opField w = 4 ∧ (selField w ≠ 0 ∨ lvlField w = true)) ∨
    (opField w = 5 ∧ (7 ≤ (selField w).toNat ∨ lvlField w = true ∨
      ((selField w).toNat ≤ 3 ∧ 1 < (lowField w).toNat) ∨
      (selField w = 4 ∧ 4 < (lowField w).toNat))) ∨
    (opField w = 6 ∧ w.extractLsb' 0 28 ≠ 0) ∨
    rsvField w ≠ 0) ∧
  ∀ (w : Word) (e : DecodeError) (s : State), decode w = .error e →
    step (present s w) = .next { s with ill := true }

/-- Each stimulus is encoded as the OR of its class word and its shifted operands: RC_EDGE, ECHO_EDGE
for s = 0, 1, 2, CMP_MATCH for c = 0, 1, 2, POLL, SET_IN for p = 0..6, and RESET as 0x60000000.
(Derived from 30_encoding.md section 2 (R223).) -/
def Obligations.EncodersAreTheOrForms : Prop :=
  (∀ (l : Bool) (t : Tick),
    encode (.rcEdge l t) = 0x10000000#32 ||| (BitVec.ofBool l).setWidth 32 <<< 16 ||| t.setWidth 32 ∧
    encode (.echoEdgeL l t) = 0x20000000#32 ||| 0#32 <<< 24 |||
      (BitVec.ofBool l).setWidth 32 <<< 16 ||| t.setWidth 32 ∧
    encode (.echoEdgeC l t) = 0x20000000#32 ||| 1#32 <<< 24 |||
      (BitVec.ofBool l).setWidth 32 <<< 16 ||| t.setWidth 32 ∧
    encode (.echoEdgeR l t) = 0x20000000#32 ||| 2#32 <<< 24 |||
      (BitVec.ofBool l).setWidth 32 <<< 16 ||| t.setWidth 32) ∧
  (∀ t : Tick,
    encode (.cmpMatchMotor t) = 0x30000000#32 ||| 0#32 <<< 24 ||| t.setWidth 32 ∧
    encode (.cmpMatchServo t) = 0x30000000#32 ||| 1#32 <<< 24 ||| t.setWidth 32 ∧
    encode (.cmpMatchTrig t) = 0x30000000#32 ||| 2#32 <<< 24 ||| t.setWidth 32 ∧
    encode (.poll t) = 0x40000000#32 ||| t.setWidth 32) ∧
  (∀ v : BitVec 16,
    encode (.setInModeSel v) = 0x50000000#32 ||| 0#32 <<< 24 ||| v.setWidth 32 ∧
    encode (.setInManTrig v) = 0x50000000#32 ||| 1#32 <<< 24 ||| v.setWidth 32 ∧
    encode (.setInAutoPull v) = 0x50000000#32 ||| 2#32 <<< 24 ||| v.setWidth 32 ∧
    encode (.setInTarget v) = 0x50000000#32 ||| 3#32 <<< 24 ||| v.setWidth 32 ∧
    encode (.setInEvadeCmd v) = 0x50000000#32 ||| 4#32 <<< 24 ||| v.setWidth 32 ∧
    encode (.setInServoW0 v) = 0x50000000#32 ||| 5#32 <<< 24 ||| v.setWidth 32 ∧
    encode (.setInServoW1 v) = 0x50000000#32 ||| 6#32 <<< 24 ||| v.setWidth 32) ∧
  encode .reset = 0x60000000#32

/-- One or more words of every class, as the spec writes them out in its examples and vectors, decode
to the stimulus and operands it gives. (Derived from 95_test_vectors.md L2.2, L2.6 to L2.11;
40_rc_decoder.md section 1.) -/
def Obligations.ListedWordsDecode : Prop :=
  decode 0x100003E8#32 = .ok (.rcEdge false 1000) ∧
  decode 0x10010258#32 = .ok (.rcEdge true 600) ∧
  decode 0x20010C1C#32 = .ok (.echoEdgeL true 3100) ∧
  decode 0x21010BD6#32 = .ok (.echoEdgeC true 3030) ∧
  decode 0x22010000#32 = .ok (.echoEdgeR true 0) ∧
  decode 0x300004D2#32 = .ok (.cmpMatchMotor 1234) ∧
  decode 0x31000000#32 = .ok (.cmpMatchServo 0) ∧
  decode 0x3200FFFF#32 = .ok (.cmpMatchTrig 65535) ∧
  decode 0x4000FFFF#32 = .ok (.poll 65535) ∧
  decode 0x50000001#32 = .ok (.setInModeSel 1) ∧
  decode 0x54000004#32 = .ok (.setInEvadeCmd 4) ∧
  decode 0x5600FFFF#32 = .ok (.setInServoW1 65535) ∧
  decode 0x60000000#32 = .ok .reset

/-- The four bytes of a word are its bits 7:0, 15:8, 23:16 and 31:24 in that order; reading them back,
with any bytes after them, gives the word and those bytes; the bytes of a whole stream give that
stream; fewer than four bytes are no stimulus, and a stored stream that ends inside a word is
refused; a word of 32 bits is decoded, and presented, as it is; and one of another width decodes
to no stimulus and is not presented. (Derived from 20_memory.md section 2 (R202, R204).) -/
def Obligations.StoredWordsAreWholeAndLittleEndian : Prop :=
  (∀ w : Word, bytesOfWord w =
    [w.extractLsb' 0 8, w.extractLsb' 8 8, w.extractLsb' 16 8, w.extractLsb' 24 8]) ∧
  (∀ (w : Word) (rest : List Byte), wordOfBytes (bytesOfWord w ++ rest) = some (w, rest)) ∧
  (∀ ws : List Word, streamOfBytes (ws.flatMap bytesOfWord) = .ok ws) ∧
  (∀ bs : List Byte, bs.length < 4 → decodeBytes bs = .error .partialWord) ∧
  (∀ bs : List Byte, bs.length % 4 ≠ 0 → streamOfBytes bs = .error .partialWord) ∧
  (∀ (s : State) (w : Word), decodeTableWord 32 w.toNat = (decode w).toOption ∧
    s.withFetchWord 32 w.toNat = present s w) ∧
  ∀ (s : State) (nbits w : Nat), nbits ≠ 32 ∨ 2 ^ 32 ≤ w →
    decodeTableWord nbits w = none ∧ s.withFetchWord nbits w = s

/-- RCBIT t, w, g expands to RC_FALL t, POLL t, RC_RISE t+w, POLL t+w and the next bit starts at
t+w+g; RCSTART t, lo, hi expands to RC_FALL t, POLL t, RC_RISE t+lo, POLL t+lo and its idle phase
ends at t+lo+hi; all sums are modulo 65536. (States R229.) -/
def Obligations.MacrosExpandToFourStimuli : Prop :=
  ∀ t w g : Tick,
    AsmLine.expand (.rcBit t w g) =
      [.rcEdge false t, .poll t, .rcEdge true (t + w), .poll (t + w)] ∧
    AsmLine.expand (.rcStart t w g) =
      [.rcEdge false t, .poll t, .rcEdge true (t + w), .poll (t + w)] ∧
    (t + w).toNat = (t.toNat + w.toNat) % 65536 ∧
    (nextFall t w g).toNat = (t.toNat + w.toNat + g.toNat) % 65536

/-- When the next word of the stream decodes to i, the step is exec of i at the state without that
word; nothing else is done around exec. (Derived from 44_host_ops.md (R100, R101).) -/
def Obligations.StepRunsTheDecodedStimulus : Prop :=
  ∀ (s : State) (w : Word) (ws : List Word) (i : Instr),
    s.stream = w :: ws → decode w = .ok i → step s = exec i { s with stream := ws }

/-- When the next word of the stream is rejected, the step consumes it and sets ill; every other field
is unchanged: no cause, no word and no other state is recorded. (This is the block's own step;
that the model refuses the whole stream is said of runStream, log 3.) (States R300.) -/
def Obligations.IllegalStimulusOnlySetsIll : Prop :=
  ∀ (s : State) (w : Word) (ws : List Word) (e : DecodeError),
    s.stream = w :: ws → decode w = .error e →
    step s = .next { s with stream := ws, ill := true }

/-- When the stream is empty the step answers the same state: the block waits for its next stimulus.
(The model's reading of the wait, log 2.) (Derived from 20_memory.md section 1;
70_reset_and_hazards.md section 1.) -/
def Obligations.StepWaitsWithoutStimulus : Prop :=
  ∀ s : State, s.stream = [] → step s = .next s

/-- For every stimulus i, well formed or not, and every state, exec i answers a next state; and so
does step, whatever the stream holds: no stimulus faults, traps away or is refused. (Derived from
60_exceptions.md sections 2 and 3 (R305, R306).) -/
def Obligations.EveryStimulusCompletes : Prop :=
  (∀ (i : Instr) (s : State), ∃ t, exec i s = .next t) ∧ ∀ s : State, ∃ t, step s = .next t

/-- For every state, the step's next state has the same parameters, and its stream is the stream
without its head. (Derived from 00_scope.md section 4 (R7); 20_memory.md section 3 (R206).) -/
def Obligations.ParametersAreNeverWritten : Prop :=
  ∀ s : State, ∃ t, step s = .next t ∧ t.cfg = s.cfg ∧ t.stream = s.stream.tail

/-- RESET, encoded as exactly 0x60000000, gives every field the value of the table of R37, whatever
the state was; the build parameters and the stimuli still to come, which are no fields of S, stay.
Two RESETs equal one. Power-on reset is the same table with no stimulus presented yet. (States
R37; R105.) -/
def Obligations.ResetWritesEveryField : Prop :=
  (∀ w : Word, decode w = .ok .reset ↔ w = 0x60000000#32) ∧
  (∀ s : State, exec .reset s = .next
    { cfg := s.cfg
      stream := s.stream
      dec := { state := .reset, tEdge := 0, bitIdx := 0, frame := 0, ready := false }
      lat := { ts := 0, lvl := true, pend := false, ovr := false }
      rcCmd := .stop
      arb := { prevCmd := .stop, autoToggle := false, autoEff := false, sysMode := .init,
               motorCmd := .mStop, searchEn := false, pull := false }
      inp := { modeSel := false, manTrig := false, autoPull := false, target := false,
               evadeCmd := .mStop, servoW0 := 0, servoW1 := 0 }
      mot := { cmp := 0, high := false, en := false }
      srv := { cmp := 0, subCnt := 0, out0 := false, out1 := false }
      rng := { cur := .left
               rs := { left := ⟨.probeOut, false, false, false, false, 0, 0⟩
                       center := ⟨.probeOut, false, false, false, false, 0, 0⟩
                       right := ⟨.probeOut, false, false, false, false, 0, 0⟩ }
               cmp := 0, armed := false, obstacle := false, obsSensor := .left, obsDir := .left
               coll := { left := false, center := false, right := false } }
      ill := false }) ∧
  (∀ s : State, ∃ t, exec .reset s = .next t ∧ exec .reset t = .next t) ∧
  exec .reset State.reset = .next State.reset ∧ State.reset.stream = []

/-- a +16 b is (a + b) mod 65536 and a -16 b is (a - b) mod 65536, on the whole range, with no trap
and no saturation. (States R10.) -/
def Obligations.TickArithmeticIsModular : Prop :=
  ∀ a b : Tick,
    (tickAdd a b).toNat = (a.toNat + b.toNat) % 65536 ∧
    ((tickSub a b).toNat : Int) = ((a.toNat : Int) - (b.toNat : Int)) % 65536

/-- sdiff new old is u where u = new -16 old is below 32768 and u - 65536 otherwise; it lies in
-32768..32767; it is the integer difference modulo 65536; and sdiff (a+1) a = 1 for every tick a,
across the wrap too. (Derived from 00_scope.md section 5 (R11); 92_eei_decisions.md D31.) -/
def Obligations.SdiffIsTheSignedModularDifference : Prop :=
  (∀ new old : Tick,
    sdiff new old = (if (new - old).toNat < 32768 then ((new - old).toNat : Int)
      else ((new - old).toNat : Int) - 65536) ∧
    -32768 ≤ sdiff new old ∧ sdiff new old ≤ 32767 ∧
    (sdiff new old - ((new.toNat : Int) - (old.toNat : Int))) % 65536 = 0) ∧
  ∀ a : Tick, sdiff (a + 1) a = 1

/-- For true times old <= new in ticks: an interval below 32768 is read as it is, at any place of the
counter, across its wrap too; one of 32768..65535 is read 65536 too low, so negative. (Derived
from 70_reset_and_hazards.md section 2 (R321); 60_exceptions.md R310 (c).) -/
def Obligations.LongIntervalsAlias : Prop :=
  ∀ old new : Nat,
    (nearTimes old new →
      sdiff (BitVec.ofNat 16 new) (BitVec.ofNat 16 old) = (new : Int) - (old : Int)) ∧
    (32768 ≤ new - old → new - old < 65536 →
      sdiff (BitVec.ofNat 16 new) (BitVec.ofNat 16 old) = (new : Int) - (old : Int) - 65536)

/-- Every word of the RC_EDGE row decodes to the level in bit 16 and the tick in bits 15:0; and
RC_EDGE sets lat_ts, lat_lvl and lat_pend, sets rc_ovr if an edge was pending, and leaves every
other field as it was, dec_state among them. (States R40.) -/
def Obligations.RcEdgeLatchesTheEdge : Prop :=
  (∀ w : Word, w &&& 0xFFFE0000#32 = 0x10000000#32 →
    decode w = .ok (.rcEdge (w.getLsbD 16) (w.extractLsb' 0 16))) ∧
  ∀ (lvl : Bool) (ts : Tick) (s : State),
    exec (.rcEdge lvl ts) s = .next
      { s with lat := { ts := ts, lvl := lvl, pend := true,
                        ovr := if s.lat.pend = true then true else s.lat.ovr } }

/-- Applying one RC_EDGE twice with no POLL between gives the state that one application gives, except
that rc_ovr is set. (Derived from 20_memory.md section 3 (R207).) -/
def Obligations.RepeatedRcEdgeOnlyMarksOverrun : Prop :=
  ∀ (lvl : Bool) (ts : Tick) (s : State), ∃ t u,
    exec (.rcEdge lvl ts) s = .next t ∧ exec (.rcEdge lvl ts) t = .next u ∧
    u = { t with lat := { t.lat with ovr := true } }

/-- For every stimulus other than RESET, rc_ovr is set afterwards exactly if it was set before, or the
stimulus is an RC_EDGE and an edge was pending; RESET clears it. (States R22.) -/
def Obligations.RcOvrRecordsALostEdge : Prop :=
  (∀ (i : Instr) (s : State), i ≠ .reset → ∃ t, exec i s = .next t ∧
    (t.lat.ovr = true ↔
      s.lat.ovr = true ∨ (s.lat.pend = true ∧ ∃ lvl ts, i = .rcEdge lvl ts))) ∧
  ∀ s : State, ∃ t, exec .reset s = .next t ∧ t.lat.ovr = false

/-- POLL answers a next state for every state, in which lat_pend is clear and lat_ts, lat_lvl, rc_ovr,
the input registers, the motor and servo registers with their outputs, ill, the parameters and the
rest of the stream are unchanged; so a protocol failure never sets ill. (Derived from
44_host_ops.md (R103); 40_rc_decoder.md R55.) -/
def Obligations.PollLeavesTheRest : Prop :=
  ∀ (now : Tick) (s : State), ∃ t, exec (.poll now) s = .next t ∧
    t.lat = { s.lat with pend := false } ∧ t.inp = s.inp ∧ t.mot = s.mot ∧ t.srv = s.srv ∧
    t.ill = s.ill ∧ t.cfg = s.cfg ∧ t.stream = s.stream

/-- For a POLL with a pending edge and no void timeout, with d the signed width since t_edge: from
Reset a falling edge gives StartFall and a rising one is ignored; from StartFall a rising edge
gives StartRise if d > StartLowThreshold; from StartRise a falling edge gives a new session in
RecvFall if d > StartIdleThreshold; every other case is EnterReset, which clears bit_idx, frame
and ready; t_edge is the edge's time in every case. (States R42; R43; R44; R45; R46.) -/
def Obligations.PollStepsTheStartPulse : Prop :=
  ∀ (now : Tick) (s : State), s.lat.pend = true →
    sdiff now s.lat.ts ≤ (s.cfg.voidSilence.val : Int) →
    ∃ t, exec (.poll now) s = .next t ∧
      (s.dec.state = .reset → t.dec =
        { s.dec with state := if s.lat.lvl = true then .reset else .startFall
                     tEdge := s.lat.ts }) ∧
      (s.dec.state = .startFall → t.dec =
        if s.lat.lvl = true ∧ (s.cfg.startLow.val : Int) < sdiff s.lat.ts s.dec.tEdge then
          { s.dec with state := .startRise, tEdge := s.lat.ts }
        else { state := .reset, tEdge := s.lat.ts, bitIdx := 0, frame := 0, ready := false }) ∧
      (s.dec.state = .startRise → t.dec =
        if s.lat.lvl = false ∧ (s.cfg.startIdle.val : Int) < sdiff s.lat.ts s.dec.tEdge then
          { state := .recvFall, tEdge := s.lat.ts, bitIdx := 0, frame := 0, ready := false }
        else { state := .reset, tEdge := s.lat.ts, bitIdx := 0, frame := 0, ready := false })

/-- For a POLL with a pending edge, no void timeout and bit_idx in 0..31: from RecvFall a rising edge
stores b = (d > DataZeroThreshold) in frame bit bit_idx - 16 if 16 <= bit_idx < 16+K and no other
frame bit, increments bit_idx, and goes to ContRise2 with ready set after the 32nd bit and to
RecvRise otherwise; a falling edge is EnterReset. From RecvRise a falling edge gives RecvFall and
a rising one EnterReset. (States R47; R48; R49.) -/
def Obligations.PollReceivesDataBits : Prop :=
  ∀ (now : Tick) (s : State), s.lat.pend = true →
    sdiff now s.lat.ts ≤ (s.cfg.voidSilence.val : Int) → s.dec.bitIdx.toNat ≤ 31 →
    ∃ t, exec (.poll now) s = .next t ∧ t.dec.tEdge = s.lat.ts ∧
      (s.dec.state = .recvFall → s.lat.lvl = true →
        t.dec.bitIdx.toNat = s.dec.bitIdx.toNat + 1 ∧
        t.dec.state = (if s.dec.bitIdx.toNat + 1 = 32 then .contRise2 else .recvRise) ∧
        t.dec.ready = (if s.dec.bitIdx.toNat + 1 = 32 then true else s.dec.ready) ∧
        ∀ k, k < 8 → t.dec.frame.getLsbD k =
          if s.dec.bitIdx.toNat = 16 + k ∧
              k < (match s.cfg.payloadBits with | .three => 3 | .eight => 8) then
            decide ((s.cfg.dataZero.val : Int) < sdiff s.lat.ts s.dec.tEdge)
          else s.dec.frame.getLsbD k) ∧
      ((s.dec.state = .recvFall ∧ s.lat.lvl = false) ∨
          (s.dec.state = .recvRise ∧ s.lat.lvl = true) → t.dec =
        { state := .reset, tEdge := s.lat.ts, bitIdx := 0, frame := 0, ready := false }) ∧
      (s.dec.state = .recvRise → s.lat.lvl = false → t.dec =
        { s.dec with state := .recvFall, tEdge := s.lat.ts })

/-- For a POLL with a pending edge and no void timeout: ContRise2 goes to ContFall1 on a falling edge
and ignores a rising one; ContFall1 goes to ContRise1 on a rising edge with d > StartLowThreshold
and to ContFall2 otherwise; ContRise1 on a falling edge starts a new session if d >
StartIdleThreshold, else keeps the frame in ContFall2 if d > ContIdleThreshold, else is
EnterReset, and goes to ContFall2 on a rising edge; ContFall2 goes to ContRise2 on a rising edge
and to ContFall1 on a falling one. (States R50; R51; R52; R53.) -/
def Obligations.PollContinuesASession : Prop :=
  ∀ (now : Tick) (s : State), s.lat.pend = true →
    sdiff now s.lat.ts ≤ (s.cfg.voidSilence.val : Int) →
    ∃ t, exec (.poll now) s = .next t ∧
      (s.dec.state = .contRise2 → t.dec =
        { s.dec with state := if s.lat.lvl = true then .contRise2 else .contFall1
                     tEdge := s.lat.ts }) ∧
      (s.dec.state = .contFall1 → t.dec =
        { s.dec with
          state := if s.lat.lvl = true ∧ (s.cfg.startLow.val : Int) < sdiff s.lat.ts s.dec.tEdge
            then .contRise1 else .contFall2
          tEdge := s.lat.ts }) ∧
      (s.dec.state = .contRise1 → t.dec =
        if s.lat.lvl = true then { s.dec with state := .contFall2, tEdge := s.lat.ts }
        else if (s.cfg.startIdle.val : Int) < sdiff s.lat.ts s.dec.tEdge then
          { state := .recvFall, tEdge := s.lat.ts, bitIdx := 0, frame := 0, ready := false }
        else if (s.cfg.contIdle.val : Int) < sdiff s.lat.ts s.dec.tEdge then
          { s.dec with state := .contFall2, tEdge := s.lat.ts }
        else { state := .reset, tEdge := s.lat.ts, bitIdx := 0, frame := 0, ready := false }) ∧
      (s.dec.state = .contFall2 → t.dec =
        { s.dec with state := if s.lat.lvl = true then .contRise2 else .contFall1
                     tEdge := s.lat.ts })

/-- For a POLL in ContRise1 with a pending falling edge and no void timeout: the decoder goes to
ContFall2 exactly if the idle phase is above ContIdleThreshold and at most StartIdleThreshold; and
then bit_idx, frame and ready are kept. If ContIdleThreshold >= StartIdleThreshold no width does.
(Derived from 40_rc_decoder.md section 2 (R52); 70_reset_and_hazards.md R326.) -/
def Obligations.ContinuationWindowIsBetweenTheThresholds : Prop :=
  ∀ (now : Tick) (s : State), s.lat.pend = true → s.lat.lvl = false → s.dec.state = .contRise1 →
    sdiff now s.lat.ts ≤ (s.cfg.voidSilence.val : Int) →
    ∃ t, exec (.poll now) s = .next t ∧
      (t.dec.state = .contFall2 ↔
        (s.cfg.contIdle.val : Int) < sdiff s.lat.ts s.dec.tEdge ∧
          sdiff s.lat.ts s.dec.tEdge ≤ (s.cfg.startIdle.val : Int)) ∧
      (t.dec.state = .contFall2 → t.dec.bitIdx = s.dec.bitIdx ∧ t.dec.frame = s.dec.frame ∧
        t.dec.ready = s.dec.ready) ∧
      (windowOpen s.cfg = false → t.dec.state ≠ .contFall2)

/-- At every POLL, after the decoder step of the pending edge, if any: if sdiff(now, lat_ts) >
VoidThreshold the decoder is in Reset with bit_idx, frame and ready clear, whatever its state;
otherwise it is as the step left it, or unchanged if no edge was pending. t_edge is the edge's
time if one was pending, in every case, and unchanged if none was. (States R54; R58.) -/
def Obligations.VoidTimeoutResetsTheDecoder : Prop :=
  ∀ (now : Tick) (s : State), ∃ t, exec (.poll now) s = .next t ∧
    t.dec.tEdge = (if s.lat.pend = true then s.lat.ts else s.dec.tEdge) ∧
    ((s.cfg.voidSilence.val : Int) < sdiff now s.lat.ts →
      t.dec.state = .reset ∧ t.dec.bitIdx = 0 ∧ t.dec.frame = 0 ∧ t.dec.ready = false) ∧
    (sdiff now s.lat.ts ≤ (s.cfg.voidSilence.val : Int) →
      t.dec = if s.lat.pend = true then decStep s.cfg s.lat.ts s.lat.lvl s.dec else s.dec) ∧
    (decStep s.cfg s.lat.ts s.lat.lvl s.dec).tEdge = s.lat.ts

/-- After every POLL, rc_cmd is Stop if ready is clear, and otherwise the Command that the table of
R59 gives for frame bits 0, 1 and 2, both read after the decoder step and the void check of that
POLL. (States R59; R60.) -/
def Obligations.CommandFollowsTheLookupTable : Prop :=
  ∀ (now : Tick) (s : State), ∃ t, exec (.poll now) s = .next t ∧
    t.rcCmd =
      if t.dec.ready = false then .stop
      else if t.dec.frame.getLsbD 0 = true then
        (if t.dec.frame.getLsbD 1 = true then .right else .down)
      else if t.dec.frame.getLsbD 1 = true then
        (if t.dec.frame.getLsbD 2 = true then .up else .zero)
      else (if t.dec.frame.getLsbD 2 = true then .left else .ok)

/-- For every stimulus other than POLL and RESET, and for every illegal word, the decoder registers
are unchanged. (States R56.) -/
def Obligations.OnlyPollAndResetTouchTheDecoder : Prop :=
  (∀ (i : Instr) (s : State), isPoll i = false → i ≠ .reset →
    ∃ t, exec i s = .next t ∧ t.dec = s.dec) ∧
  ∀ (w : Word) (e : DecodeError) (s : State), decode w = .error e →
    ∃ t, step (present s w) = .next t ∧ t.dec = s.dec

/-- From every state with the decoder in Reset and no edge pending, for every start pulse with low
phase above StartLowThreshold and idle phase above StartIdleThreshold (both below 32768 ticks),
every 32 data bits of any low and high phases, at any time of the counter, a POLL at each edge:
after the last POLL the decoder is in ContRise2 with ready set and bit_idx 32, frame bit k is the
class of bit 16+k for k < K, and rc_cmd is the Command of the first three payload bits (payload
1,1,0 gives Right). (Derived from 40_rc_decoder.md R62; 40_rc_decoder.md sections 2 and 4.) -/
def Obligations.CanonicalFrameIsReceived : Prop :=
  ∀ (s : State) (t₀ lo hi : Tick) (bits : List (Tick × Tick)) (rest : List Word),
    s.dec.state = .reset → s.lat.pend = false → bits.length = 32 →
    s.cfg.startLow.val < lo.toNat → lo.toNat < 32768 →
    s.cfg.startIdle.val < hi.toNat → hi.toNat < 32768 →
    ∃ t, run 132 (s.facing ((frameStimuli t₀ lo hi bits).map encode ++ rest)) = .next t ∧
      t.stream = rest ∧ t.dec.state = .contRise2 ∧ t.dec.ready = true ∧ t.dec.bitIdx = 32 ∧
      (∀ k, k < (match s.cfg.payloadBits with | .three => 3 | .eight => 8) →
        t.dec.frame.getLsbD k =
          decide ((s.cfg.dataZero.val : Int) < ((bits.getD (16 + k) (0, 0)).1).toInt)) ∧
      ∀ b : Nat → Bool,
        (∀ k, b k = decide ((s.cfg.dataZero.val : Int) < ((bits.getD (16 + k) (0, 0)).1).toInt)) →
        t.rcCmd =
          if b 0 = true then (if b 1 = true then .right else .down)
          else if b 1 = true then (if b 2 = true then .up else .zero)
          else (if b 2 = true then .left else .ok)

/-- From every state with rc_ovr clear, running any stream in which a POLL (or a RESET) stands between
every two RC_EDGE stimuli, and before the first one if an edge is already pending, leaves rc_ovr
clear, however many other stimuli and illegal words the stream holds. (Derived from
70_reset_and_hazards.md section 2 (R323); 60_exceptions.md R310 (d).) -/
def Obligations.NoEdgeIsLostWhenPolled : Prop :=
  ∀ (s : State) (ws : List Word), s.lat.ovr = false → pollsSeparateEdges s.lat.pend ws = true →
    ∃ t, run ws.length (s.facing ws) = .next t ∧ t.stream = [] ∧ t.lat.ovr = false

/-- After every POLL, with cmd its rc_cmd: auto_toggle has flipped exactly if cmd is Zero and prev_cmd
was not, prev_cmd is cmd, auto_eff is auto_toggle under RcToggle and in_mode_sel under
SelectorPin, mode_sel_out is auto_toggle; in auto mode motor_cmd is in_evade_cmd and pull is
in_auto_pull; in manual mode motor_cmd is ManualMap of cmd by the table of R86 and pull is
in_man_trig; search_en is auto_eff. (States R82; R83; R85; R86; R88.) -/
def Obligations.PollArbitratesTheMode : Prop :=
  ∀ (now : Tick) (s : State), ∃ t, exec (.poll now) s = .next t ∧
    t.arb.prevCmd = t.rcCmd ∧
    t.arb.autoToggle =
      (if t.rcCmd = .zero ∧ s.arb.prevCmd ≠ .zero then !s.arb.autoToggle else s.arb.autoToggle) ∧
    (outputs t).modeSelOut = t.arb.autoToggle ∧
    (s.cfg.modeSource = .rcToggle → t.arb.autoEff = t.arb.autoToggle) ∧
    (s.cfg.modeSource = .selectorPin → t.arb.autoEff = s.inp.modeSel) ∧
    t.arb.searchEn = t.arb.autoEff ∧
    (t.arb.autoEff = true → t.arb.motorCmd = s.inp.evadeCmd ∧ t.arb.pull = s.inp.autoPull) ∧
    (t.arb.autoEff = false → t.arb.pull = s.inp.manTrig ∧ t.arb.motorCmd =
      match t.rcCmd with
      | .stop => .mStop
      | .up => .forward
      | .down => .backward
      | .left => .turnLeft
      | .right => .turnRight
      | .ok => .mStop
      | .zero => .mStop)

/-- After every POLL sys_mode is Manual if auto_eff is 0, Engaged if auto_eff and in_target are 1, and
Searching otherwise, and the status port shows its code; every other stimulus than POLL and RESET
leaves sys_mode as it was, and RESET makes it Init. (States R84; R89.) -/
def Obligations.SystemModeIsDerivedAtPoll : Prop :=
  (∀ (now : Tick) (s : State), ∃ t, exec (.poll now) s = .next t ∧
    t.arb.sysMode =
      (if t.arb.autoEff = false then .manual else if s.inp.target = true then .engaged
       else .searching) ∧
    (outputs t).status =
      (if t.arb.autoEff = false then 1#2 else if s.inp.target = true then 3#2 else 2#2)) ∧
  (∀ (i : Instr) (s : State), isPoll i = false → i ≠ .reset →
    ∃ t, exec i s = .next t ∧ t.arb.sysMode = s.arb.sysMode) ∧
  (∀ s : State, ∃ t, exec .reset s = .next t ∧ t.arb.sysMode = .init) ∧
  ∀ s u : State, s.arb.sysMode = u.arb.sysMode → (outputs s).status = (outputs u).status

/-- If a POLL ends with rc_cmd Zero, the next POLL, at any time and after any words other than POLL
and RESET (none, or any number, illegal ones included), leaves auto_toggle as it was. (Derived
from 43_mode_arbiter.md (R82); 92_eei_decisions.md D12.) -/
def Obligations.HeldZeroTogglesOnce : Prop :=
  ∀ (now now' : Tick) (ws : List Word) (s : State),
    (∀ w ∈ ws, isPollWord w = false ∧ isResetWord w = false) →
    ∃ t u, exec (.poll now) s = .next t ∧
      run (ws.length + 1) (t.facing (ws ++ [encode (.poll now')])) = .next u ∧ u.stream = [] ∧
      (t.rcCmd = .zero → u.arb.autoToggle = t.arb.autoToggle)

/-- For two states with the same input registers and any decoder, latch, parameters and times: if both
POLLs end in auto mode, motor_cmd, pull, search_en and sys_mode agree. (Derived from
43_mode_arbiter.md (R84, R85, R87, R88).) -/
def Obligations.AutoModeIgnoresTheRadio : Prop :=
  ∀ (now₁ now₂ : Tick) (s₁ s₂ : State), s₁.inp = s₂.inp →
    ∃ t₁ t₂, exec (.poll now₁) s₁ = .next t₁ ∧ exec (.poll now₂) s₂ = .next t₂ ∧
      (t₁.arb.autoEff = true → t₂.arb.autoEff = true →
        t₁.arb.motorCmd = t₂.arb.motorCmd ∧ t₁.arb.pull = t₂.arb.pull ∧
        t₁.arb.searchEn = t₂.arb.searchEn ∧ t₁.arb.sysMode = t₂.arb.sysMode)

/-- Every word of the row decodes to CMP_MATCH.MOTOR; the event toggles mot_phase, advances cmp0 by
MotorLowTicks when it leaves the high phase and by MotorHighTicks when it enters it, modulo 65536,
sets motor_en exactly in the high phase with motor_cmd other than MStop, and changes nothing else;
the tick is not read. (States R66.) -/
def Obligations.MotorEventTogglesThePhase : Prop :=
  (∀ w : Word, w &&& 0xFFFF0000#32 = 0x30000000#32 →
    decode w = .ok (.cmpMatchMotor (w.extractLsb' 0 16))) ∧
  ∀ (tick : Tick) (s : State),
    exec (.cmpMatchMotor tick) s = .next
      { s with mot :=
          if s.mot.high = true then
            { cmp := s.mot.cmp + s.cfg.motorLowTicks.ticks, high := false, en := false }
          else
            { cmp := s.mot.cmp + s.cfg.motorHighTicks.ticks, high := true
              en := decide (s.arb.motorCmd ≠ .mStop) } }

/-- Every word of the row decodes to CMP_MATCH.SERVO; with sub_cnt below TotalWidth, the event sets
each output exactly if sub_cnt is below the channel's width (unsigned), counts to sub_cnt + 1 or
from TotalWidth - 1 to 0, advances cmp1 by ServoSubTicks, and changes nothing else; it completes
for every other counter value too. (States R67.) -/
def Obligations.ServoEventTestsThenCounts : Prop :=
  (∀ w : Word, w &&& 0xFFFF0000#32 = 0x31000000#32 →
    decode w = .ok (.cmpMatchServo (w.extractLsb' 0 16))) ∧
  ∀ (tick : Tick) (s : State), ∃ v, exec (.cmpMatchServo tick) s = .next { s with srv := v } ∧
    v.out0 = decide (s.srv.subCnt.toNat < s.inp.servoW0.toNat) ∧
    v.out1 = decide (s.srv.subCnt.toNat < s.inp.servoW1.toNat) ∧
    v.cmp = s.srv.cmp + s.cfg.servoSubTicks.ticks ∧
    (s.srv.subCnt.toNat < s.cfg.totalWidth.ticks.toNat → v.subCnt.toNat =
      if s.srv.subCnt.toNat + 1 = s.cfg.totalWidth.ticks.toNat then 0
      else s.srv.subCnt.toNat + 1)

/-- Two CMP_MATCH stimuli of one channel with different ticks do the same in every state, and none of
them sets ill. (States R226.) -/
def Obligations.CompareTickIsNotRead : Prop :=
  ∀ (a b : Tick) (s : State),
    exec (.cmpMatchMotor a) s = exec (.cmpMatchMotor b) s ∧
    exec (.cmpMatchServo a) s = exec (.cmpMatchServo b) s ∧
    exec (.cmpMatchTrig a) s = exec (.cmpMatchTrig b) s ∧
    (∃ t, exec (.cmpMatchMotor a) s = .next t ∧ t.ill = s.ill) ∧
    (∃ t, exec (.cmpMatchServo a) s = .next t ∧ t.ill = s.ill) ∧
    ∃ t, exec (.cmpMatchTrig a) s = .next t ∧ t.ill = s.ill

/-- Every stimulus other than CMP_MATCH.MOTOR and RESET leaves motor_en, and every stimulus other than
CMP_MATCH.SERVO and RESET leaves both servo outputs; an illegal word leaves all three. (States
R68.) -/
def Obligations.OutputsMoveOnlyAtCompareMatches : Prop :=
  (∀ (i : Instr) (s : State), i ≠ .reset → ∃ t, exec i s = .next t ∧
    ((∀ tick, i ≠ .cmpMatchMotor tick) → t.mot.en = s.mot.en) ∧
    ((∀ tick, i ≠ .cmpMatchServo tick) → t.srv.out0 = s.srv.out0 ∧ t.srv.out1 = s.srv.out1)) ∧
  ∀ (w : Word) (e : DecodeError) (s : State), decode w = .error e →
    ∃ t, step (present s w) = .next t ∧ t.mot.en = s.mot.en ∧ t.srv.out0 = s.srv.out0 ∧
      t.srv.out1 = s.srv.out1

/-- The compare distance set on entering the high phase is MotorHighTicks and on leaving it
MotorLowTicks, modulo 65536; so two events return mot_phase and advance cmp0 by their sum.
(Derived from 41_output_scheduler.md (R66, R69).) -/
def Obligations.MotorPeriodIsHighPlusLow : Prop :=
  ∀ (a b : Tick) (s : State), ∃ t u,
    exec (.cmpMatchMotor a) s = .next t ∧ exec (.cmpMatchMotor b) t = .next u ∧
    (t.mot.high = true → t.mot.cmp - s.mot.cmp = s.cfg.motorHighTicks.ticks) ∧
    (t.mot.high = false → t.mot.cmp - s.mot.cmp = s.cfg.motorLowTicks.ticks) ∧
    u.mot.high = s.mot.high ∧
    u.mot.cmp = s.mot.cmp + (s.cfg.motorHighTicks.ticks + s.cfg.motorLowTicks.ticks)

/-- If a motor match comes when the counter is cmp0, and so does the next one, the phase between them
lasts MotorHighTicks if it is the high one and MotorLowTicks if not; two servo matches are
ServoSubTicks apart; and a trigger pulse fired by an on-time POLL and ended by an on-time match is
high from one to the other and lasts TrigWidthTicks. All modulo 65536. (Derived from
41_output_scheduler.md (R69); 60_exceptions.md R310 (a), (b); 42_ranging.md (R75, R76).) -/
def Obligations.OnTimeMatchesGiveTheProgrammedWidths : Prop :=
  ∀ (c₁ c₂ a b : Tick) (s : State),
    (onTime c₁ s (.cmpMatchMotor a) = true → ∃ t, exec (.cmpMatchMotor a) s = .next t ∧
      (onTime c₂ t (.cmpMatchMotor b) = true → c₂ - c₁ =
        if t.mot.high = true then s.cfg.motorHighTicks.ticks else s.cfg.motorLowTicks.ticks)) ∧
    (onTime c₁ s (.cmpMatchServo a) = true → ∃ t, exec (.cmpMatchServo a) s = .next t ∧
      (onTime c₂ t (.cmpMatchServo b) = true → c₂ - c₁ = s.cfg.servoSubTicks.ticks)) ∧
    ((s.rng.rs.get s.rng.cur).phase = .probeOut → (s.rng.rs.get s.rng.cur).sent = false →
      onTime c₁ s (.poll a) = true → ∃ t u, exec (.poll a) s = .next t ∧
        exec (.cmpMatchTrig b) t = .next u ∧ trigOut t.rng s.rng.cur = true ∧
        trigOut u.rng s.rng.cur = false ∧
        (onTime c₂ t (.cmpMatchTrig b) = true → c₂ - c₁ = s.cfg.trigWidthTicks.ticks))

/-- From every state with sub_cnt 0 (as after reset), after any stream without RESET that holds n
CMP_MATCH.SERVO words among any others, sub_cnt is n mod T; and if n > 0 and the stream writes no
width of a channel, that channel's output is high exactly if (n-1) mod T < W; neither channel's
width affects the other. (Derived from 41_output_scheduler.md (R69); 90_conflicts.md C2.) -/
def Obligations.ServoHighForFirstWOfEveryT : Prop :=
  ∀ (s : State) (ws : List Word), s.srv.subCnt = 0 → (∀ w ∈ ws, isResetWord w = false) →
    ∃ t, run ws.length (s.facing ws) = .next t ∧ t.stream = [] ∧
      t.srv.subCnt.toNat = (ws.filter isServoWord).length % s.cfg.totalWidth.ticks.toNat ∧
      (0 < (ws.filter isServoWord).length → (∀ w ∈ ws, isWidth0Word w = false) →
        t.srv.out0 = decide (((ws.filter isServoWord).length - 1) % s.cfg.totalWidth.ticks.toNat <
          s.inp.servoW0.toNat)) ∧
      (0 < (ws.filter isServoWord).length → (∀ w ∈ ws, isWidth1Word w = false) →
        t.srv.out1 = decide (((ws.filter isServoWord).length - 1) % s.cfg.totalWidth.ticks.toNat <
          s.inp.servoW1.toNat))

/-- For each of L, C and R: every word of the row decodes to it; if the sensor is the current one, in
ProbeIn, with no pair captured, a rising edge writes rise_ts and rise_seen and a falling edge
after a rising one writes fall_ts and feedback_received; every other echo edge changes nothing; no
other field changes. (States R73.) -/
def Obligations.EchoEdgeIsCapturedOrIgnored : Prop :=
  (∀ w : Word,
    (w &&& 0xFFFE0000#32 = 0x20000000#32 →
      decode w = .ok (.echoEdgeL (w.getLsbD 16) (w.extractLsb' 0 16))) ∧
    (w &&& 0xFFFE0000#32 = 0x21000000#32 →
      decode w = .ok (.echoEdgeC (w.getLsbD 16) (w.extractLsb' 0 16))) ∧
    (w &&& 0xFFFE0000#32 = 0x22000000#32 →
      decode w = .ok (.echoEdgeR (w.getLsbD 16) (w.extractLsb' 0 16)))) ∧
  ∀ (lvl : Bool) (ts : Tick) (s : State),
    (
      exec (.echoEdgeL lvl ts) s = .next
        { s with rng :=
            if s.rng.cur = .left ∧ s.rng.rs.left.phase = .probeIn ∧ s.rng.rs.left.feedback = false then
              (if lvl = true then
                { s.rng with rs := { s.rng.rs with
                    left := { s.rng.rs.left with riseTs := ts, riseSeen := true } } }
              else if s.rng.rs.left.riseSeen = true then
                { s.rng with rs := { s.rng.rs with
                    left := { s.rng.rs.left with fallTs := ts, feedback := true } } }
              else s.rng)
            else s.rng }) ∧
    (
      exec (.echoEdgeC lvl ts) s = .next
        { s with rng :=
            if s.rng.cur = .center ∧ s.rng.rs.center.phase = .probeIn ∧ s.rng.rs.center.feedback = false then
              (if lvl = true then
                { s.rng with rs := { s.rng.rs with
                    center := { s.rng.rs.center with riseTs := ts, riseSeen := true } } }
              else if s.rng.rs.center.riseSeen = true then
                { s.rng with rs := { s.rng.rs with
                    center := { s.rng.rs.center with fallTs := ts, feedback := true } } }
              else s.rng)
            else s.rng }) ∧
    (
      exec (.echoEdgeR lvl ts) s = .next
        { s with rng :=
            if s.rng.cur = .right ∧ s.rng.rs.right.phase = .probeIn ∧ s.rng.rs.right.feedback = false then
              (if lvl = true then
                { s.rng with rs := { s.rng.rs with
                    right := { s.rng.rs.right with riseTs := ts, riseSeen := true } } }
              else if s.rng.rs.right.riseSeen = true then
                { s.rng with rs := { s.rng.rs with
                    right := { s.rng.rs.right with fallTs := ts, feedback := true } } }
              else s.rng)
            else s.rng })

/-- Every word of the row decodes to CMP_MATCH.TRIG; if channel 2 is armed and the current sensor is
in ProbeOut with its trigger sent, it goes to ProbeIn with rise_seen and feedback_received clear,
its line is no longer driven, and channel 2 is disarmed; otherwise nothing changes, ill included.
(States R76.) -/
def Obligations.TriggerTimerEndsThePulse : Prop :=
  (∀ w : Word, w &&& 0xFFFF0000#32 = 0x32000000#32 →
    decode w = .ok (.cmpMatchTrig (w.extractLsb' 0 16))) ∧
  ∀ (tick : Tick) (s : State),
    exec (.cmpMatchTrig tick) s = .next
      (if s.rng.armed = true ∧ (s.rng.rs.get s.rng.cur).phase = .probeOut ∧
          (s.rng.rs.get s.rng.cur).sent = true then
        { s with rng := { s.rng with
            rs := s.rng.rs.set s.rng.cur
              { s.rng.rs.get s.rng.cur with phase := .probeIn, riseSeen := false, feedback := false }
            armed := false } }
      else s) ∧
    (s.rng.armed = true → (s.rng.rs.get s.rng.cur).phase = .probeOut →
      (s.rng.rs.get s.rng.cur).sent = true →
      ∃ t, exec (.cmpMatchTrig tick) s = .next t ∧ trigOe t.rng s.rng.cur = false)

/-- For a POLL with the current sensor in ProbeOut and probe_sent clear: probe_sent is set, cmp2 is
now + TrigWidthTicks, channel 2 is armed, the pulse of the last obstacle is cleared, no other
ranging register changes, and the sensor's line is driven high; the next CMP_MATCH.TRIG ends the
pulse. (States R75.) -/
def Obligations.PollFiresAFreshSensor : Prop :=
  ∀ (now tick : Tick) (s : State), (s.rng.rs.get s.rng.cur).phase = .probeOut →
    (s.rng.rs.get s.rng.cur).sent = false →
    ∃ t u, exec (.poll now) s = .next t ∧
      t.rng = { s.rng with
        rs := s.rng.rs.set s.rng.cur { s.rng.rs.get s.rng.cur with sent := true }
        cmp := now + s.cfg.trigWidthTicks.ticks
        armed := true
        obstacle := false } ∧
      trigOut t.rng s.rng.cur = true ∧
      exec (.cmpMatchTrig tick) t = .next u ∧ trigOut u.rng s.rng.cur = false

/-- For a POLL with the current sensor in ProbeOut and its trigger sent, or in ProbeIn with neither a
captured pair nor a classification, the ranging registers are unchanged but for obstacle, which is
cleared. (States R74.) -/
def Obligations.PollWaitsForTriggerOrEcho : Prop :=
  ∀ (now : Tick) (s : State),
    ((s.rng.rs.get s.rng.cur).phase = .probeOut ∧ (s.rng.rs.get s.rng.cur).sent = true) ∨
      ((s.rng.rs.get s.rng.cur).phase = .probeIn ∧ (s.rng.rs.get s.rng.cur).feedback = false ∧
        (s.rng.rs.get s.rng.cur).finished = false) →
    ∃ t, exec (.poll now) s = .next t ∧ t.rng = { s.rng with obstacle := false }

/-- For a POLL with the current sensor in ProbeIn, a pair captured and not classified: probe_finished
is set and coll of the sensor is 1 exactly if sdiff(fall_ts, rise_ts) > CollisionThreshold; then
obstacle is set with obs_sensor the sensor and obs_dir Right for Left, Left for Right and
CenterTurnDir for Center; otherwise obstacle is clear and obs_sensor and obs_dir are kept; no
other ranging register changes. (States R77; R79.) -/
def Obligations.PollClassifiesTheEcho : Prop :=
  ∀ (now : Tick) (s : State), (s.rng.rs.get s.rng.cur).phase = .probeIn →
    (s.rng.rs.get s.rng.cur).finished = false → (s.rng.rs.get s.rng.cur).feedback = true →
    ∃ t, exec (.poll now) s = .next t ∧
      t.rng =
        if (s.cfg.collision.val : Int) <
            sdiff (s.rng.rs.get s.rng.cur).fallTs (s.rng.rs.get s.rng.cur).riseTs then
          { s.rng with
            rs := s.rng.rs.set s.rng.cur { s.rng.rs.get s.rng.cur with finished := true }
            coll := s.rng.coll.set s.rng.cur true
            obstacle := true
            obsSensor := s.rng.cur
            obsDir :=
              match s.rng.cur with
              | .left => .right
              | .right => .left
              | .center => s.cfg.centerTurnDir }
        else
          { s.rng with
            rs := s.rng.rs.set s.rng.cur { s.rng.rs.get s.rng.cur with finished := true }
            coll := s.rng.coll.set s.rng.cur false
            obstacle := false }

/-- For a POLL with the current sensor in ProbeIn and classified: cur becomes the next sensor of the
order Left, Center, Right, Left; its record goes to ProbeOut with its four flags clear and its two
timestamps kept; obstacle is cleared; the record left behind, the third one and every other
ranging register are unchanged. (States R78.) -/
def Obligations.PollAdvancesToTheNextSensor : Prop :=
  ∀ (now : Tick) (s : State), (s.rng.rs.get s.rng.cur).phase = .probeIn →
    (s.rng.rs.get s.rng.cur).finished = true →
    ∃ t, exec (.poll now) s = .next t ∧
      t.rng.cur = (match s.rng.cur with | .left => .center | .center => .right | .right => .left) ∧
      t.rng = { s.rng with
        cur := t.rng.cur
        rs := s.rng.rs.set t.rng.cur
          { phase := .probeOut, sent := false, finished := false, feedback := false,
            riseSeen := false, riseTs := (s.rng.rs.get t.rng.cur).riseTs,
            fallTs := (s.rng.rs.get t.rng.cur).fallTs }
        obstacle := false }

/-- In every state that meets the invariant, for every stimulus: if some sensor's probe_sent goes from
0 to 1, the stimulus is a POLL, that sensor is the current one in ProbeOut, and every other
sensor's probe is finished or not started; if some sensor's probe_sent goes from 1 to 0, the
stimulus is RESET, or a POLL with the current sensor's probe finished and that sensor the next of
the order; and cur changes only at RESET or at a POLL with the current sensor's probe finished.
(Derived from 42_ranging.md (R72).) -/
def Obligations.NoRetriggerBeforeClassification : Prop :=
  ∀ (i : Instr) (s : State), Inv s → ∃ t, exec i s = .next t ∧
    (∀ x, (s.rng.rs.get x).sent = false → (t.rng.rs.get x).sent = true →
      isPoll i = true ∧ x = s.rng.cur ∧ (s.rng.rs.get x).phase = .probeOut ∧
      ∀ y, y ≠ x → (s.rng.rs.get y).quiet) ∧
    (∀ x, (s.rng.rs.get x).sent = true → (t.rng.rs.get x).sent = false →
      i = .reset ∨ (isPoll i = true ∧ (s.rng.rs.get s.rng.cur).finished = true ∧
        x = (match s.rng.cur with | .left => .center | .center => .right | .right => .left))) ∧
    (t.rng.cur ≠ s.rng.cur →
      i = .reset ∨ (isPoll i = true ∧ (s.rng.rs.get s.rng.cur).finished = true))

/-- From every state with the current sensor in ProbeIn, neither classified nor with a pair captured,
any stream, however long, without RESET and without a falling echo edge of that sensor after a
rising one (rise_seen counts as one already seen) leaves cur, its ProbeIn phase, its two flags,
the classifications and the other sensors' records as they were. (Derived from 42_ranging.md
(R80); 70_reset_and_hazards.md section 2 (R324).) -/
def Obligations.MissingEchoStallsRanging : Prop :=
  ∀ (s : State) (ws : List Word), (s.rng.rs.get s.rng.cur).phase = .probeIn →
    (s.rng.rs.get s.rng.cur).finished = false → (s.rng.rs.get s.rng.cur).feedback = false →
    (∀ w ∈ ws, isResetWord w = false) →
    noEchoPair s.rng.cur (s.rng.rs.get s.rng.cur).riseSeen ws = true →
    ∃ t, run ws.length (s.facing ws) = .next t ∧ t.stream = [] ∧ t.rng.cur = s.rng.cur ∧
      (t.rng.rs.get s.rng.cur).phase = .probeIn ∧ (t.rng.rs.get s.rng.cur).finished = false ∧
      (t.rng.rs.get s.rng.cur).feedback = false ∧ t.rng.coll = s.rng.coll ∧
      ∀ x, x ≠ s.rng.cur → t.rng.rs.get x = s.rng.rs.get x

/-- From every state with a fresh current sensor: a POLL, CMP_MATCH.TRIG, a rising and a falling echo
edge of that sensor and a second POLL, at any times, end with the sensor classified by its echo
width and obstacle set exactly if it is above CollisionThreshold, with obs_sensor that sensor and
obs_dir its turn direction (Right for Left, Left for Right, CenterTurnDir for Center) if so and
both kept if not; a third POLL goes on to the next sensor, fresh, with obstacle clear and
obs_sensor and obs_dir kept. (Derived from 42_ranging.md (R71, R72, R77, R78, R79);
70_reset_and_hazards.md R328.) -/
def Obligations.AnsweredProbeCompletes : Prop :=
  ∀ (s : State) (fireAt trigAt rise fall classifyAt advanceAt : Tick) (rest : List Word),
    (s.rng.rs.get s.rng.cur).phase = .probeOut → (s.rng.rs.get s.rng.cur).sent = false →
    (s.rng.rs.get s.rng.cur).finished = false →
    ∃ t u,
      run 5 (s.facing ((probeStimuli s.rng.cur fireAt trigAt rise fall classifyAt).map encode ++
        encode (.poll advanceAt) :: rest)) = .next t ∧
      step t = .next u ∧
      t.rng.cur = s.rng.cur ∧ (t.rng.rs.get s.rng.cur).finished = true ∧
      t.rng.obstacle = decide ((s.cfg.collision.val : Int) < sdiff fall rise) ∧
      t.rng.coll.get s.rng.cur = decide ((s.cfg.collision.val : Int) < sdiff fall rise) ∧
      t.rng.obsSensor =
        (if (s.cfg.collision.val : Int) < sdiff fall rise then s.rng.cur else s.rng.obsSensor) ∧
      t.rng.obsDir =
        (if (s.cfg.collision.val : Int) < sdiff fall rise then
          (match s.rng.cur with
            | .left => .right | .right => .left | .center => s.cfg.centerTurnDir)
        else s.rng.obsDir) ∧
      u.rng.obsSensor = t.rng.obsSensor ∧ u.rng.obsDir = t.rng.obsDir ∧
      u.stream = rest ∧ u.rng.obstacle = false ∧ u.rng.cur = nextSensor s.rng.cur ∧
      (u.rng.rs.get u.rng.cur).phase = .probeOut ∧ (u.rng.rs.get u.rng.cur).sent = false

/-- In every state that meets the invariant with obstacle set: the next POLL clears it, and every
stimulus other than POLL and RESET keeps it with its obs_sensor and obs_dir. (Derived from
42_ranging.md (R81); 10_state.md R35.) -/
def Obligations.ObstaclePulseLastsOnePoll : Prop :=
  ∀ s : State, Inv s → s.rng.obstacle = true →
    (∀ now : Tick, ∃ t, exec (.poll now) s = .next t ∧ t.rng.obstacle = false) ∧
    ∀ i : Instr, isPoll i = false → i ≠ .reset → ∃ t, exec i s = .next t ∧
      t.rng.obstacle = true ∧ t.rng.obsSensor = s.rng.obsSensor ∧ t.rng.obsDir = s.rng.obsDir

/-- For each of the seven ports and every 16-bit value: a value within the port's range is written to
that register (for EVADE_CMD as the motor command with that code, 0..4) and nothing else changes;
a value outside it sets ill and the port keeps its value. (States R104.) -/
def Obligations.SetInWritesOnePort : Prop :=
  (∀ (v : BitVec 16) (s : State),
    (v.toNat ≤ 1 → exec (.setInModeSel v) s = .next { s with inp := { s.inp with modeSel := v.getLsbD 0 } }) ∧
    (1 < v.toNat → exec (.setInModeSel v) s = .next { s with ill := true }) ∧
    (v.toNat ≤ 1 → exec (.setInManTrig v) s = .next { s with inp := { s.inp with manTrig := v.getLsbD 0 } }) ∧
    (1 < v.toNat → exec (.setInManTrig v) s = .next { s with ill := true }) ∧
    (v.toNat ≤ 1 → exec (.setInAutoPull v) s = .next { s with inp := { s.inp with autoPull := v.getLsbD 0 } }) ∧
    (1 < v.toNat → exec (.setInAutoPull v) s = .next { s with ill := true }) ∧
    (v.toNat ≤ 1 → exec (.setInTarget v) s = .next { s with inp := { s.inp with target := v.getLsbD 0 } }) ∧
    (1 < v.toNat → exec (.setInTarget v) s = .next { s with ill := true }) ∧
    (4 < v.toNat → exec (.setInEvadeCmd v) s = .next { s with ill := true }) ∧
    exec (.setInServoW0 v) s = .next { s with inp := { s.inp with servoW0 := v } } ∧
    exec (.setInServoW1 v) s = .next { s with inp := { s.inp with servoW1 := v } }) ∧
  (∀ s : State,
    exec (.setInEvadeCmd 0) s = .next { s with inp := { s.inp with evadeCmd := .mStop } } ∧
    exec (.setInEvadeCmd 1) s = .next { s with inp := { s.inp with evadeCmd := .forward } } ∧
    exec (.setInEvadeCmd 2) s = .next { s with inp := { s.inp with evadeCmd := .backward } } ∧
    exec (.setInEvadeCmd 3) s = .next { s with inp := { s.inp with evadeCmd := .turnLeft } } ∧
    exec (.setInEvadeCmd 4) s = .next { s with inp := { s.inp with evadeCmd := .turnRight } }) ∧
  ∀ v : BitVec 16,
    (v.toNat ≤ 1 → decode (pack 5 0 false v) = .ok (.setInModeSel v) ∧
      decode (pack 5 1 false v) = .ok (.setInManTrig v) ∧
      decode (pack 5 2 false v) = .ok (.setInAutoPull v) ∧
      decode (pack 5 3 false v) = .ok (.setInTarget v)) ∧
    (1 < v.toNat → ∀ p : BitVec 4, p.toNat ≤ 3 → decode (pack 5 p false v) = .error .badValue) ∧
    (v.toNat ≤ 4 → decode (pack 5 4 false v) = .ok (.setInEvadeCmd v)) ∧
    (4 < v.toNat → decode (pack 5 4 false v) = .error .badValue) ∧
    decode (pack 5 5 false v) = .ok (.setInServoW0 v) ∧
    decode (pack 5 6 false v) = .ok (.setInServoW1 v)

/-- Every stimulus other than SET_IN and RESET leaves all seven input registers; every SET_IN leaves
every field other than the input registers and ill; and one whose value is in range leaves every
output port as it was. (Derived from 10_state.md sections 1 and 4 (R14, R28);
70_reset_and_hazards.md R327.) -/
def Obligations.OnlySetInAndResetWriteInputs : Prop :=
  (∀ (i : Instr) (s : State), isSetIn i = false → i ≠ .reset →
    ∃ t, exec i s = .next t ∧ t.inp = s.inp) ∧
  ∀ (i : Instr) (s : State), isSetIn i = true →
    ∃ t, exec i s = .next t ∧ t = { s with inp := t.inp, ill := t.ill } ∧
      (i.wellFormed = true → outputs t = outputs s)

/-- For every state whose next word, if any, is not RESET: after the step ill is set exactly if it was
set before or the word is illegal; after a RESET word it is clear. (Derived from 44_host_ops.md
(R102); 10_state.md R38.) -/
def Obligations.IllIsStickyAndOnlyForIllegalWords : Prop :=
  ∀ s : State, ∃ t, step s = .next t ∧
    ((∀ w ws, s.stream = w :: ws → decode w ≠ .ok .reset) →
      (t.ill = true ↔
        s.ill = true ∨ ∃ w ws e, s.stream = w :: ws ∧ decode w = .error e)) ∧
    (∀ w ws, s.stream = w :: ws → decode w = .ok .reset → t.ill = false)

/-- Applying an illegal word sets ill and changes nothing else; no stimulus other than RESET clears
ill, and RESET does; the model refuses every stream that holds an illegal word, by such a word;
and it runs the block over every stream of stimuli, with the outcome of as many steps. (States
R102.) -/
def Obligations.IllegalWordsSetIllAndTheirStreamsAreRefused : Prop :=
  (∀ (w : Word) (e : DecodeError) (s : State), decode w = .error e →
    step (present s w) = .next { s with ill := true }) ∧
  (∀ (i : Instr) (s : State), i ≠ .reset → s.ill = true → ∃ t, exec i s = .next t ∧ t.ill = true) ∧
  (∀ s : State, ∃ t, exec .reset s = .next t ∧ t.ill = false) ∧
  (∀ (s : State) (ws : List Word), (∃ w ∈ ws, ∃ e, decode w = .error e) →
    ∃ w ∈ ws, (∃ e, decode w = .error e) ∧ runStream s ws = .refused (.illegalStream w)) ∧
  ∀ (s : State) (ws : List Word), (∀ w ∈ ws, ∃ i, decode w = .ok i) →
    ∃ t, runStream s ws = .next t ∧ run ws.length (s.facing ws) = .next t ∧ t.stream = []

/-- From every state with ill clear, running any stream all of whose words are stimuli is not refused
and ends with ill clear. (Derived from 93_implementation_defined.md I1; 44_host_ops.md (R102).) -/
def Obligations.LegalStreamsKeepIllClear : Prop :=
  ∀ (s : State) (ws : List Word), s.ill = false → allLegal ws = true →
    ∃ t, runStream s ws = .next t ∧ t.stream = [] ∧ t.ill = false

/-- Each output port has the value R36 gives it, enumerated ones by the codes of R16, R23, R26, R27,
R32 and R35: both motor enables, the motor command, the servo levels, the driven lines and levels
of the three sensors, the compare values, the status, the mode select, the hand-off, the radio
outputs and the sticky bits. (Derived from 10_state.md section 7 (R36); 10_state.md (R16, R23,
R26, R27, R32, R35).) -/
def Obligations.OutputPortsShowTheState : Prop :=
  ∀ s : State,
    (outputs s).motorEnA = s.mot.en ∧ (outputs s).motorEnB = s.mot.en ∧
    (outputs s).motorCmdOut = (match s.arb.motorCmd with
      | .mStop => 0 | .forward => 1 | .backward => 2 | .turnLeft => 3 | .turnRight => 4) ∧
    (outputs s).servo0 = s.srv.out0 ∧ (outputs s).servo1 = s.srv.out1 ∧
    (∀ x : Sensor,
      ((outputs s).trigOe.get x = true ↔ x = s.rng.cur ∧ (s.rng.rs.get x).phase = .probeOut) ∧
      ((outputs s).trigOut.get x = true ↔
        (outputs s).trigOe.get x = true ∧ (s.rng.rs.get x).sent = true)) ∧
    (outputs s).cmp0 = s.mot.cmp ∧ (outputs s).cmp1 = s.srv.cmp ∧ (outputs s).cmp2 = s.rng.cmp ∧
    (outputs s).cmp2Armed = s.rng.armed ∧
    (outputs s).status = (match s.arb.sysMode with
      | .init => 0 | .manual => 1 | .searching => 2 | .engaged => 3) ∧
    (outputs s).modeSelOut = s.arb.autoToggle ∧
    (outputs s).searchEn = s.arb.searchEn ∧ (outputs s).pull = s.arb.pull ∧
    (outputs s).obstacle = s.rng.obstacle ∧
    (outputs s).obsSensor = (match s.rng.obsSensor with | .left => 0 | .center => 1 | .right => 2) ∧
    (outputs s).obsDir = (match s.rng.obsDir with | .left => false | .right => true) ∧
    (outputs s).coll = s.rng.coll ∧
    (outputs s).rcCmd = (match s.rcCmd with
      | .stop => 0 | .up => 1 | .down => 2 | .left => 3 | .right => 4 | .ok => 5 | .zero => 6) ∧
    (outputs s).rcReady = s.dec.ready ∧ (outputs s).rcFrame = s.dec.frame ∧
    (outputs s).rcState = (match s.dec.state with
      | .reset => 0 | .startFall => 1 | .startRise => 2 | .recvFall => 3 | .recvRise => 4
      | .contFall1 => 5 | .contRise1 => 6 | .contFall2 => 7 | .contRise2 => 8) ∧
    (outputs s).ill = s.ill ∧ (outputs s).rcOvr = s.lat.ovr

/-- The invariant of Safety.lean holds of the reset state of every build with any stream, of the
power-on state State.reset, and of the state after RESET. (Derived from 10_state.md (R37 and the
derived invariants after R39).) -/
def Obligations.InvariantHoldsAtReset : Prop :=
  (∀ (p : Config.Params) (ws : List Word), Inv (State.initial p ws)) ∧ Inv State.reset ∧
  ∀ s : State, ∃ t, exec .reset s = .next t ∧ Inv t

/-- For every state with Inv s and whatever stream: the step answers a next state with Inv. Inv holds
the derived invariants of 10_state.md (ready exactly in the continuation states with bit_idx 32,
frame bits K..7 clear, sub_cnt below TotalWidth, channel 2 armed only during the current sensor's
pulse) and what makes them inductive: bit counts by decoder state, rc_cmd is the lookup of the
frame, prev_cmd is rc_cmd, search_en is auto_eff, the order of the probe flags, one probe at a
time. (Derived from 10_state.md (the derived invariants after R39); 42_ranging.md R72;
40_rc_decoder.md R61.) -/
def Obligations.EveryStepKeepsTheInvariant : Prop :=
  ∀ s : State, Inv s → ∃ t, step s = .next t ∧ Inv t

/-- In every state that meets the invariant: ready is set exactly if dec_state is one of ContFall1,
ContRise1, ContFall2 and ContRise2, and then bit_idx is 32; and rc_cmd other than Stop implies
ready. (Derived from 10_state.md (the derived invariants after R39); 40_rc_decoder.md R61.) -/
def Obligations.ReadyOnlyWithACompleteFrame : Prop :=
  ∀ s : State, Inv s →
    (s.dec.ready = true ↔ s.dec.state = .contFall1 ∨ s.dec.state = .contRise1 ∨
      s.dec.state = .contFall2 ∨ s.dec.state = .contRise2) ∧
    (s.dec.ready = true → s.dec.bitIdx = 32) ∧ (s.rcCmd ≠ .stop → s.dec.ready = true)
end

