-- ==== Sys2Proof/Laws/Encoding.lean ====
section
/-!
SUPPORT. The packed word and the fields of a word as numbers, and the masks of R222 as conditions on
fields.
-/

namespace Sys2Proof

/-- Appending bit vectors is appending digits. -/
theorem toNat_append_eq {m n : Nat} (x : BitVec m) (y : BitVec n) :
    (x ++ y).toNat = x.toNat * 2 ^ n + y.toNat := by
  rw [BitVec.toNat_append, ← Nat.shiftLeft_add_eq_or_of_lt y.isLt, Nat.shiftLeft_eq]

/-- A packed word as a number. -/
theorem toNat_pack (op sel : BitVec 4) (lvl : Bool) (low : BitVec 16) :
    (pack op sel lvl low).toNat =
      op.toNat * 2 ^ 28 + sel.toNat * 2 ^ 24 + lvl.toNat * 2 ^ 16 + low.toNat := by
  have h : (op ++ sel ++ 0#7 ++ BitVec.ofBool lvl ++ low).toNat =
      op.toNat * 2 ^ 28 + sel.toNat * 2 ^ 24 + lvl.toNat * 2 ^ 16 + low.toNat := by
    simp only [toNat_append_eq, BitVec.toNat_ofBool, BitVec.toNat_ofNat]
    omega
  exact h

theorem toNat_opField (w : Word) : (opField w).toNat = w.toNat / 2 ^ 28 := by
  have := w.isLt
  simp only [opField, BitVec.extractLsb'_toNat, Nat.shiftRight_eq_div_pow]
  omega

theorem toNat_selField (w : Word) : (selField w).toNat = w.toNat / 2 ^ 24 % 16 := by
  simp only [selField, BitVec.extractLsb'_toNat, Nat.shiftRight_eq_div_pow]

theorem toNat_rsvField (w : Word) : (rsvField w).toNat = w.toNat / 2 ^ 17 % 128 := by
  simp only [rsvField, BitVec.extractLsb'_toNat, Nat.shiftRight_eq_div_pow]

theorem toNat_lvlField (w : Word) : (lvlField w).toNat = w.toNat / 2 ^ 16 % 2 := by
  simp only [lvlField, BitVec.getLsbD, Nat.testBit_eq_decide_div_mod_eq]
  rcases Nat.mod_two_eq_zero_or_one (w.toNat / 2 ^ 16) with h | h <;> rw [h] <;> rfl

theorem toNat_lowField (w : Word) : (lowField w).toNat = w.toNat % 2 ^ 16 := by
  simp [lowField, BitVec.extractLsb'_toNat]

@[simp] theorem opField_pack (op sel : BitVec 4) (lvl : Bool) (low : BitVec 16) :
    opField (pack op sel lvl low) = op := by
  apply BitVec.eq_of_toNat_eq
  have := op.isLt; have := sel.isLt; have := low.isLt; have := Bool.toNat_le lvl
  rw [toNat_opField, toNat_pack]
  omega

@[simp] theorem selField_pack (op sel : BitVec 4) (lvl : Bool) (low : BitVec 16) :
    selField (pack op sel lvl low) = sel := by
  apply BitVec.eq_of_toNat_eq
  have := op.isLt; have := sel.isLt; have := low.isLt; have := Bool.toNat_le lvl
  rw [toNat_selField, toNat_pack]
  omega

@[simp] theorem rsvField_pack (op sel : BitVec 4) (lvl : Bool) (low : BitVec 16) :
    rsvField (pack op sel lvl low) = 0 := by
  apply BitVec.eq_of_toNat_eq
  have := op.isLt; have := sel.isLt; have := low.isLt; have := Bool.toNat_le lvl
  rw [toNat_rsvField, toNat_pack]
  simp only [BitVec.ofNat_eq_ofNat, BitVec.toNat_ofNat]
  omega

@[simp] theorem lvlField_pack (op sel : BitVec 4) (lvl : Bool) (low : BitVec 16) :
    lvlField (pack op sel lvl low) = lvl := by
  have h : (lvlField (pack op sel lvl low)).toNat = lvl.toNat := by
    have := op.isLt; have := sel.isLt; have := low.isLt; have := Bool.toNat_le lvl
    rw [toNat_lvlField, toNat_pack]
    omega
  revert h
  cases lvlField (pack op sel lvl low) <;> cases lvl <;> simp

@[simp] theorem lowField_pack (op sel : BitVec 4) (lvl : Bool) (low : BitVec 16) :
    lowField (pack op sel lvl low) = low := by
  apply BitVec.eq_of_toNat_eq
  have := op.isLt; have := sel.isLt; have := low.isLt; have := Bool.toNat_le lvl
  rw [toNat_lowField, toNat_pack]
  omega

/-- A word is its fields: two words with the same five fields are the same. -/
theorem word_eq_pack (w : Word) (h : rsvField w = 0) :
    w = pack (opField w) (selField w) (lvlField w) (lowField w) := by
  apply BitVec.eq_of_toNat_eq
  have hw := w.isLt
  have hr : (rsvField w).toNat = 0 := by rw [h]; rfl
  rw [toNat_rsvField] at hr
  rw [toNat_pack, toNat_opField, toNat_selField, toNat_lvlField, toNat_lowField]
  omega

/-- Decoding a packed word decodes its fields. -/
@[simp] theorem decode_pack (op sel : BitVec 4) (lvl : Bool) (low : BitVec 16) :
    decode (pack op sel lvl low) = decodeFields op sel lvl low := by
  simp [decode]

/-- A word that decodes has RSV 0, is the packing of its fields, and they decode to the same. -/
theorem decode_eq_ok {w : Word} {i : Instr} (h : decode w = .ok i) :
    w = pack (opField w) (selField w) (lvlField w) (lowField w) ∧
      decodeFields (opField w) (selField w) (lvlField w) (lowField w) = .ok i := by
  by_cases hr : rsvField w = 0
  · rw [decode, if_pos hr] at h
    exact ⟨word_eq_pack w hr, h⟩
  · rw [decode, if_neg hr] at h
    cases h

/-- A four-bit field with a known number. -/
theorem bitVec4_of_toNat {x : BitVec 4} {n : Nat} (h : x.toNat = n) : x = BitVec.ofNat 4 n := by
  apply BitVec.eq_of_toNat_eq
  have := x.isLt
  simp only [BitVec.toNat_ofNat]
  omega

/-- A mask that keeps the top bits of a word tests the quotient by the power of two below them. -/
theorem and_topMask_eq_iff (w : Word) (k : Nat) (hk : k ≤ 32) (c : Nat) (hc : c < 2 ^ (32 - k)) :
    w &&& BitVec.ofNat 32 ((2 ^ (32 - k) - 1) * 2 ^ k) = BitVec.ofNat 32 (c * 2 ^ k) ↔
      w.toNat / 2 ^ k = c := by
  have hw := w.isLt
  have hp : 2 ^ (32 - k) * 2 ^ k = 2 ^ 32 := by rw [← Nat.pow_add]; congr 1; omega
  have hpk : 0 < 2 ^ k := Nat.two_pow_pos k
  have hlt : ∀ a, a < 2 ^ (32 - k) → a * 2 ^ k < 2 ^ 32 := by
    intro a ha
    calc a * 2 ^ k < 2 ^ (32 - k) * 2 ^ k := Nat.mul_lt_mul_of_pos_right ha hpk
      _ = 2 ^ 32 := hp
  have hq : w.toNat / 2 ^ k < 2 ^ (32 - k) := by
    rw [Nat.div_lt_iff_lt_mul hpk, hp]; exact hw
  have hm : (2 ^ (32 - k) - 1) * 2 ^ k < 2 ^ 32 :=
    hlt _ (Nat.sub_lt (Nat.two_pow_pos _) Nat.one_pos)
  have hand : w.toNat &&& (2 ^ (32 - k) - 1) * 2 ^ k = w.toNat / 2 ^ k * 2 ^ k := by
    apply Nat.eq_of_testBit_eq
    intro i
    rw [Nat.testBit_and, Nat.testBit_mul_two_pow, Nat.testBit_mul_two_pow,
      Nat.testBit_two_pow_sub_one, Nat.testBit_div_two_pow]
    by_cases hki : k ≤ i
    · have hik : i - k + k = i := by omega
      by_cases hi : i < 32
      · have : i - k < 32 - k := by omega
        simp [hki, hik, this]
      · have h0 : w.toNat.testBit i = false :=
          Nat.testBit_lt_two_pow (Nat.lt_of_lt_of_le hw (Nat.pow_le_pow_right (by omega) (by omega)))
        simp [hki, hik, h0]
    · simp [hki]
  constructor
  · intro h
    have h2 := congrArg BitVec.toNat h
    rw [BitVec.toNat_and, BitVec.toNat_ofNat, BitVec.toNat_ofNat, Nat.mod_eq_of_lt hm,
      Nat.mod_eq_of_lt (hlt c hc), hand] at h2
    exact Nat.eq_of_mul_eq_mul_right hpk h2
  · intro h
    apply BitVec.eq_of_toNat_eq
    rw [BitVec.toNat_and, BitVec.toNat_ofNat, BitVec.toNat_ofNat, Nat.mod_eq_of_lt hm,
      Nat.mod_eq_of_lt (hlt c hc), hand, h]

/-! ## Widths and stored streams (R202, R204) -/

theorem tableWord_of_width (w : Word) : tableWord 32 w.toNat = some w := by
  simp [tableWord, w.isLt]

theorem tableWord_of_other_width {nbits w : Nat} (h : nbits ≠ 32 ∨ 2 ^ 32 ≤ w) :
    tableWord nbits w = none := by
  unfold tableWord
  rw [if_neg]
  rintro ⟨rfl, hw⟩
  omega

@[simp] theorem streamOfBytes_nil : streamOfBytes [] = .ok [] := rfl

@[simp] theorem streamOfBytes_cons (b0 b1 b2 b3 : Byte) (rest : List Byte) :
    streamOfBytes (b0 :: b1 :: b2 :: b3 :: rest) =
      (streamOfBytes rest).map ((b3 ++ b2 ++ b1 ++ b0) :: ·) := rfl

end Sys2Proof
end

