-- ==== Sys2Proof/Laws/Operands.lean ====
section
/-!
SUPPORT. What the operand forms and the threshold test answer.
-/

namespace Sys2Proof.Machine

/-! ## Per-sensor registers -/

@[simp] theorem PerSensor.get_set_same {α : Type} (r : PerSensor α) (s : Sensor) (v : α) :
    (r.set s v).get s = v := by
  cases s <;> rfl

@[simp] theorem PerSensor.get_set_ne {α : Type} (r : PerSensor α) {s x : Sensor} (v : α)
    (h : x ≠ s) : (r.set s v).get x = r.get x := by
  cases s <;> cases x <;> first | rfl | exact absurd rfl h

theorem PerSensor.get_set {α : Type} (r : PerSensor α) (s x : Sensor) (v : α) :
    (r.set s v).get x = if x = s then v else r.get x := by
  by_cases h : x = s
  · subst h; simp
  · simp [h]

@[simp] theorem PerSensor.set_get_self {α : Type} (r : PerSensor α) (s : Sensor) :
    r.set s (r.get s) = r := by
  cases s <;> rfl

/-- Two per-sensor registers are equal where they agree on each sensor. -/
theorem PerSensor.eq_of_get {α : Type} {r q : PerSensor α} (h : ∀ s, r.get s = q.get s) : r = q := by
  cases r; cases q
  have hl := h .left
  have hc := h .center
  have hr := h .right
  simp only [PerSensor.get] at hl hc hr
  rw [hl, hc, hr]

/-! ## Ticks -/

/-- The signed tick difference is the modular difference read as a signed 16-bit number. -/
theorem sdiff_eq_toInt (new old : Tick) : sdiff new old = (new - old).toInt := by
  have hs : sdiff new old = if (new - old).toNat < 32768 then ((new - old).toNat : Int)
      else ((new - old).toNat : Int) - 65536 := rfl
  rw [hs, BitVec.toInt]
  by_cases h : (new - old).toNat < 32768
  · rw [if_pos h, if_pos (by omega)]
  · rw [if_neg h, if_neg (by omega)]
    rfl

theorem exceeds_iff (d : Int) (th : Config.Threshold) :
    exceeds d th = true ↔ (th.val : Int) < d := by
  simp [exceeds]

theorem exceeds_eq_false_iff (d : Int) (th : Config.Threshold) :
    exceeds d th = false ↔ d ≤ (th.val : Int) := by
  simp [exceeds]

/-! ## Values -/

theorem boolOfVal_of_le {v : BitVec 16} (h : v.toNat ≤ 1) : boolOfVal v = some (v.getLsbD 0) := by
  simp [boolOfVal, h]

theorem boolOfVal_of_gt {v : BitVec 16} (h : 1 < v.toNat) : boolOfVal v = none := by
  simp [boolOfVal, Nat.not_le.mpr h]

theorem motorCmdOfVal_eq_none_iff (v : BitVec 16) : motorCmdOfVal v = none ↔ 4 < v.toNat := by
  unfold motorCmdOfVal
  split <;> simp_all
  omega

/-- A frame bit is written and every other one is kept. -/
theorem getLsbD_setFrameBit (f : BitVec 8) (k j : Nat) (b : Bool) (hk : k < 8) :
    (setFrameBit f k b).getLsbD j = if j = k then b else f.getLsbD j := by
  have hj : j < 8 ∨ 8 ≤ j := by omega
  rcases hj with hj | hj
  · interval_cases k <;> interval_cases j <;> cases b <;>
      simp [setFrameBit]
  · rw [BitVec.getLsbD_of_ge _ _ hj, BitVec.getLsbD_of_ge _ _ hj]
    split
    · omega
    · rfl

theorem payloadCount_le (k : Config.PayloadBits) : payloadCount k ≤ 8 := by
  cases k <;> simp [payloadCount]

/-- A duration is a number in 1..65535. -/
theorem duration_pos (d : Config.Duration) : 0 < d.ticks.toNat := by
  have h := d.positive
  rw [Nat.pos_iff_ne_zero]
  intro h0
  exact h (BitVec.eq_of_toNat_eq (by simpa using h0))

end Sys2Proof.Machine
end

