-- ==== Sys2Proof/Laws/PerInstr.lean ====
section
/-!
SUPPORT. A family of statements about stimuli as syntax: the encoding of each well-formed stimulus
satisfies its own row of R222, mask and extra constraint.
-/

namespace Sys2Proof.Laws.EncodeMatchesRow

/-- Some row of the opcode table with this stimulus's mnemonic is satisfied by its word. -/
def Statement (i : Instr) : Prop :=
  i.wellFormed = true → ∃ r ∈ opcodeTable, r.mnemonic = i.mnemonic ∧ r.matches (encode i) = true

/-- A row that fixes all but the `k` low bits is satisfied by a packed word with those top bits. -/
theorem pack_row (op sel : BitVec 4) (lvl : Bool) (low : BitVec 16) (k c max : Nat) (m : String)
    (hk : k ≤ 32) (hc : c < 2 ^ (32 - k))
    (hq : (op.toNat * 2 ^ 28 + sel.toNat * 2 ^ 24 + lvl.toNat * 2 ^ 16 + low.toNat) / 2 ^ k = c)
    (hl : low.toNat % 8 ≤ max) :
    Row.matches ⟨m, BitVec.ofNat 32 (c * 2 ^ k), BitVec.ofNat 32 ((2 ^ (32 - k) - 1) * 2 ^ k), max⟩
      (pack op sel lvl low) = true := by
  have hn := toNat_pack op sel lvl low
  have h := (and_topMask_eq_iff (pack op sel lvl low) k hk c hc).mpr (by rw [hn]; exact hq)
  have h3 : ((pack op sel lvl low).extractLsb' 0 3).toNat = low.toNat % 8 := by
    rw [BitVec.extractLsb'_toNat, hn, Nat.shiftRight_zero]; omega
  simp only [Row.matches, h, h3, hl, beq_self_eq_true, decide_true, Bool.and_self]

theorem rcEdge (lvl : Bool) (ts : Tick) : Statement (.rcEdge lvl ts) := by
  intro _
  have := ts.isLt; have := Bool.toNat_le lvl
  exact ⟨_, List.getElem_mem (l := opcodeTable) (n := 0) (by decide), rfl,
    pack_row 1 0 lvl ts 17 0x800 7 _ (by decide) (by decide) (by simp; try omega) (by omega)⟩

theorem echoEdgeL (lvl : Bool) (ts : Tick) : Statement (.echoEdgeL lvl ts) := by
  intro _
  have := ts.isLt; have := Bool.toNat_le lvl
  exact ⟨_, List.getElem_mem (l := opcodeTable) (n := 1) (by decide), rfl,
    pack_row 2 0 lvl ts 17 0x1000 7 _ (by decide) (by decide) (by simp; try omega) (by omega)⟩

theorem echoEdgeC (lvl : Bool) (ts : Tick) : Statement (.echoEdgeC lvl ts) := by
  intro _
  have := ts.isLt; have := Bool.toNat_le lvl
  exact ⟨_, List.getElem_mem (l := opcodeTable) (n := 2) (by decide), rfl,
    pack_row 2 1 lvl ts 17 0x1080 7 _ (by decide) (by decide) (by simp; try omega) (by omega)⟩

theorem echoEdgeR (lvl : Bool) (ts : Tick) : Statement (.echoEdgeR lvl ts) := by
  intro _
  have := ts.isLt; have := Bool.toNat_le lvl
  exact ⟨_, List.getElem_mem (l := opcodeTable) (n := 3) (by decide), rfl,
    pack_row 2 2 lvl ts 17 0x1100 7 _ (by decide) (by decide) (by simp; try omega) (by omega)⟩

theorem cmpMatchMotor (x : Tick) : Statement (.cmpMatchMotor x) := by
  intro _
  have := x.isLt
  exact ⟨_, List.getElem_mem (l := opcodeTable) (n := 4) (by decide), rfl,
    pack_row 3 0 false x 16 0x3000 7 _ (by decide) (by decide) (by simp; try omega) (by omega)⟩

theorem cmpMatchServo (x : Tick) : Statement (.cmpMatchServo x) := by
  intro _
  have := x.isLt
  exact ⟨_, List.getElem_mem (l := opcodeTable) (n := 5) (by decide), rfl,
    pack_row 3 1 false x 16 0x3100 7 _ (by decide) (by decide) (by simp; try omega) (by omega)⟩

theorem cmpMatchTrig (x : Tick) : Statement (.cmpMatchTrig x) := by
  intro _
  have := x.isLt
  exact ⟨_, List.getElem_mem (l := opcodeTable) (n := 6) (by decide), rfl,
    pack_row 3 2 false x 16 0x3200 7 _ (by decide) (by decide) (by simp; try omega) (by omega)⟩

theorem poll (x : Tick) : Statement (.poll x) := by
  intro _
  have := x.isLt
  exact ⟨_, List.getElem_mem (l := opcodeTable) (n := 7) (by decide), rfl,
    pack_row 4 0 false x 16 0x4000 7 _ (by decide) (by decide) (by simp; try omega) (by omega)⟩

theorem setInModeSel (x : BitVec 16) : Statement (.setInModeSel x) := by
  intro h
  have := x.isLt
  have hx := of_decide_eq_true h
  exact ⟨_, List.getElem_mem (l := opcodeTable) (n := 8) (by decide), rfl,
    pack_row 5 0 false x 1 0x28000000 7 _ (by decide) (by decide) (by simp; try omega) (by omega)⟩

theorem setInManTrig (x : BitVec 16) : Statement (.setInManTrig x) := by
  intro h
  have := x.isLt
  have hx := of_decide_eq_true h
  exact ⟨_, List.getElem_mem (l := opcodeTable) (n := 9) (by decide), rfl,
    pack_row 5 1 false x 1 0x28800000 7 _ (by decide) (by decide) (by simp; try omega) (by omega)⟩

theorem setInAutoPull (x : BitVec 16) : Statement (.setInAutoPull x) := by
  intro h
  have := x.isLt
  have hx := of_decide_eq_true h
  exact ⟨_, List.getElem_mem (l := opcodeTable) (n := 10) (by decide), rfl,
    pack_row 5 2 false x 1 0x29000000 7 _ (by decide) (by decide) (by simp; try omega) (by omega)⟩

theorem setInTarget (x : BitVec 16) : Statement (.setInTarget x) := by
  intro h
  have := x.isLt
  have hx := of_decide_eq_true h
  exact ⟨_, List.getElem_mem (l := opcodeTable) (n := 11) (by decide), rfl,
    pack_row 5 3 false x 1 0x29800000 7 _ (by decide) (by decide) (by simp; try omega) (by omega)⟩

theorem setInEvadeCmd (x : BitVec 16) : Statement (.setInEvadeCmd x) := by
  intro h
  have := x.isLt
  have hx := of_decide_eq_true h
  exact ⟨_, List.getElem_mem (l := opcodeTable) (n := 12) (by decide), rfl,
    pack_row 5 4 false x 3 0xa800000 4 _ (by decide) (by decide) (by simp; try omega) (by omega)⟩

theorem setInServoW0 (x : BitVec 16) : Statement (.setInServoW0 x) := by
  intro _
  have := x.isLt
  exact ⟨_, List.getElem_mem (l := opcodeTable) (n := 13) (by decide), rfl,
    pack_row 5 5 false x 16 0x5500 7 _ (by decide) (by decide) (by simp; try omega) (by omega)⟩

theorem setInServoW1 (x : BitVec 16) : Statement (.setInServoW1 x) := by
  intro _
  have := x.isLt
  exact ⟨_, List.getElem_mem (l := opcodeTable) (n := 14) (by decide), rfl,
    pack_row 5 6 false x 16 0x5600 7 _ (by decide) (by decide) (by simp; try omega) (by omega)⟩

theorem reset : Statement .reset := by
  intro _
  exact ⟨_, List.getElem_mem (l := opcodeTable) (n := 15) (by decide), rfl,
    pack_row 6 0 false 0 0 0x60000000 7 _ (by decide) (by decide) (by decide) (by decide)⟩

end Sys2Proof.Laws.EncodeMatchesRow
end

