-- ==== Sys2Proof/Laws/State.lean ====
section
/-!
SUPPORT. One lemma per field per update of the state record, and the same for taking the exception,
resetting and presenting a word, so that no proof unfolds an update.
-/

namespace Sys2Proof.Machine

variable (s : State)

@[simp] theorem State.setStream_cfg (ws : List Word) : (s.setStream ws).cfg = s.cfg := rfl
@[simp] theorem State.setStream_stream (ws : List Word) : (s.setStream ws).stream = ws := rfl
@[simp] theorem State.setStream_dec (ws : List Word) : (s.setStream ws).dec = s.dec := rfl
@[simp] theorem State.setStream_lat (ws : List Word) : (s.setStream ws).lat = s.lat := rfl
@[simp] theorem State.setStream_rcCmd (ws : List Word) : (s.setStream ws).rcCmd = s.rcCmd := rfl
@[simp] theorem State.setStream_arb (ws : List Word) : (s.setStream ws).arb = s.arb := rfl
@[simp] theorem State.setStream_inp (ws : List Word) : (s.setStream ws).inp = s.inp := rfl
@[simp] theorem State.setStream_mot (ws : List Word) : (s.setStream ws).mot = s.mot := rfl
@[simp] theorem State.setStream_srv (ws : List Word) : (s.setStream ws).srv = s.srv := rfl
@[simp] theorem State.setStream_rng (ws : List Word) : (s.setStream ws).rng = s.rng := rfl
@[simp] theorem State.setStream_ill (ws : List Word) : (s.setStream ws).ill = s.ill := rfl

@[simp] theorem State.setDec_cfg (d : Decoder) : (s.setDec d).cfg = s.cfg := rfl
@[simp] theorem State.setDec_stream (d : Decoder) : (s.setDec d).stream = s.stream := rfl
@[simp] theorem State.setDec_dec (d : Decoder) : (s.setDec d).dec = d := rfl
@[simp] theorem State.setDec_lat (d : Decoder) : (s.setDec d).lat = s.lat := rfl
@[simp] theorem State.setDec_rcCmd (d : Decoder) : (s.setDec d).rcCmd = s.rcCmd := rfl
@[simp] theorem State.setDec_arb (d : Decoder) : (s.setDec d).arb = s.arb := rfl
@[simp] theorem State.setDec_inp (d : Decoder) : (s.setDec d).inp = s.inp := rfl
@[simp] theorem State.setDec_mot (d : Decoder) : (s.setDec d).mot = s.mot := rfl
@[simp] theorem State.setDec_srv (d : Decoder) : (s.setDec d).srv = s.srv := rfl
@[simp] theorem State.setDec_rng (d : Decoder) : (s.setDec d).rng = s.rng := rfl
@[simp] theorem State.setDec_ill (d : Decoder) : (s.setDec d).ill = s.ill := rfl

@[simp] theorem State.setLat_cfg (l : Latch) : (s.setLat l).cfg = s.cfg := rfl
@[simp] theorem State.setLat_stream (l : Latch) : (s.setLat l).stream = s.stream := rfl
@[simp] theorem State.setLat_dec (l : Latch) : (s.setLat l).dec = s.dec := rfl
@[simp] theorem State.setLat_lat (l : Latch) : (s.setLat l).lat = l := rfl
@[simp] theorem State.setLat_rcCmd (l : Latch) : (s.setLat l).rcCmd = s.rcCmd := rfl
@[simp] theorem State.setLat_arb (l : Latch) : (s.setLat l).arb = s.arb := rfl
@[simp] theorem State.setLat_inp (l : Latch) : (s.setLat l).inp = s.inp := rfl
@[simp] theorem State.setLat_mot (l : Latch) : (s.setLat l).mot = s.mot := rfl
@[simp] theorem State.setLat_srv (l : Latch) : (s.setLat l).srv = s.srv := rfl
@[simp] theorem State.setLat_rng (l : Latch) : (s.setLat l).rng = s.rng := rfl
@[simp] theorem State.setLat_ill (l : Latch) : (s.setLat l).ill = s.ill := rfl

@[simp] theorem State.setRcCmd_cfg (c : Command) : (s.setRcCmd c).cfg = s.cfg := rfl
@[simp] theorem State.setRcCmd_stream (c : Command) : (s.setRcCmd c).stream = s.stream := rfl
@[simp] theorem State.setRcCmd_dec (c : Command) : (s.setRcCmd c).dec = s.dec := rfl
@[simp] theorem State.setRcCmd_lat (c : Command) : (s.setRcCmd c).lat = s.lat := rfl
@[simp] theorem State.setRcCmd_rcCmd (c : Command) : (s.setRcCmd c).rcCmd = c := rfl
@[simp] theorem State.setRcCmd_arb (c : Command) : (s.setRcCmd c).arb = s.arb := rfl
@[simp] theorem State.setRcCmd_inp (c : Command) : (s.setRcCmd c).inp = s.inp := rfl
@[simp] theorem State.setRcCmd_mot (c : Command) : (s.setRcCmd c).mot = s.mot := rfl
@[simp] theorem State.setRcCmd_srv (c : Command) : (s.setRcCmd c).srv = s.srv := rfl
@[simp] theorem State.setRcCmd_rng (c : Command) : (s.setRcCmd c).rng = s.rng := rfl
@[simp] theorem State.setRcCmd_ill (c : Command) : (s.setRcCmd c).ill = s.ill := rfl

@[simp] theorem State.setArb_cfg (a : Arbiter) : (s.setArb a).cfg = s.cfg := rfl
@[simp] theorem State.setArb_stream (a : Arbiter) : (s.setArb a).stream = s.stream := rfl
@[simp] theorem State.setArb_dec (a : Arbiter) : (s.setArb a).dec = s.dec := rfl
@[simp] theorem State.setArb_lat (a : Arbiter) : (s.setArb a).lat = s.lat := rfl
@[simp] theorem State.setArb_rcCmd (a : Arbiter) : (s.setArb a).rcCmd = s.rcCmd := rfl
@[simp] theorem State.setArb_arb (a : Arbiter) : (s.setArb a).arb = a := rfl
@[simp] theorem State.setArb_inp (a : Arbiter) : (s.setArb a).inp = s.inp := rfl
@[simp] theorem State.setArb_mot (a : Arbiter) : (s.setArb a).mot = s.mot := rfl
@[simp] theorem State.setArb_srv (a : Arbiter) : (s.setArb a).srv = s.srv := rfl
@[simp] theorem State.setArb_rng (a : Arbiter) : (s.setArb a).rng = s.rng := rfl
@[simp] theorem State.setArb_ill (a : Arbiter) : (s.setArb a).ill = s.ill := rfl

@[simp] theorem State.setInp_cfg (x : Inputs) : (s.setInp x).cfg = s.cfg := rfl
@[simp] theorem State.setInp_stream (x : Inputs) : (s.setInp x).stream = s.stream := rfl
@[simp] theorem State.setInp_dec (x : Inputs) : (s.setInp x).dec = s.dec := rfl
@[simp] theorem State.setInp_lat (x : Inputs) : (s.setInp x).lat = s.lat := rfl
@[simp] theorem State.setInp_rcCmd (x : Inputs) : (s.setInp x).rcCmd = s.rcCmd := rfl
@[simp] theorem State.setInp_arb (x : Inputs) : (s.setInp x).arb = s.arb := rfl
@[simp] theorem State.setInp_inp (x : Inputs) : (s.setInp x).inp = x := rfl
@[simp] theorem State.setInp_mot (x : Inputs) : (s.setInp x).mot = s.mot := rfl
@[simp] theorem State.setInp_srv (x : Inputs) : (s.setInp x).srv = s.srv := rfl
@[simp] theorem State.setInp_rng (x : Inputs) : (s.setInp x).rng = s.rng := rfl
@[simp] theorem State.setInp_ill (x : Inputs) : (s.setInp x).ill = s.ill := rfl

@[simp] theorem State.setMot_cfg (m : MotorPwm) : (s.setMot m).cfg = s.cfg := rfl
@[simp] theorem State.setMot_stream (m : MotorPwm) : (s.setMot m).stream = s.stream := rfl
@[simp] theorem State.setMot_dec (m : MotorPwm) : (s.setMot m).dec = s.dec := rfl
@[simp] theorem State.setMot_lat (m : MotorPwm) : (s.setMot m).lat = s.lat := rfl
@[simp] theorem State.setMot_rcCmd (m : MotorPwm) : (s.setMot m).rcCmd = s.rcCmd := rfl
@[simp] theorem State.setMot_arb (m : MotorPwm) : (s.setMot m).arb = s.arb := rfl
@[simp] theorem State.setMot_inp (m : MotorPwm) : (s.setMot m).inp = s.inp := rfl
@[simp] theorem State.setMot_mot (m : MotorPwm) : (s.setMot m).mot = m := rfl
@[simp] theorem State.setMot_srv (m : MotorPwm) : (s.setMot m).srv = s.srv := rfl
@[simp] theorem State.setMot_rng (m : MotorPwm) : (s.setMot m).rng = s.rng := rfl
@[simp] theorem State.setMot_ill (m : MotorPwm) : (s.setMot m).ill = s.ill := rfl

@[simp] theorem State.setSrv_cfg (v : ServoPwm) : (s.setSrv v).cfg = s.cfg := rfl
@[simp] theorem State.setSrv_stream (v : ServoPwm) : (s.setSrv v).stream = s.stream := rfl
@[simp] theorem State.setSrv_dec (v : ServoPwm) : (s.setSrv v).dec = s.dec := rfl
@[simp] theorem State.setSrv_lat (v : ServoPwm) : (s.setSrv v).lat = s.lat := rfl
@[simp] theorem State.setSrv_rcCmd (v : ServoPwm) : (s.setSrv v).rcCmd = s.rcCmd := rfl
@[simp] theorem State.setSrv_arb (v : ServoPwm) : (s.setSrv v).arb = s.arb := rfl
@[simp] theorem State.setSrv_inp (v : ServoPwm) : (s.setSrv v).inp = s.inp := rfl
@[simp] theorem State.setSrv_mot (v : ServoPwm) : (s.setSrv v).mot = s.mot := rfl
@[simp] theorem State.setSrv_srv (v : ServoPwm) : (s.setSrv v).srv = v := rfl
@[simp] theorem State.setSrv_rng (v : ServoPwm) : (s.setSrv v).rng = s.rng := rfl
@[simp] theorem State.setSrv_ill (v : ServoPwm) : (s.setSrv v).ill = s.ill := rfl

@[simp] theorem State.setRng_cfg (r : Ranging) : (s.setRng r).cfg = s.cfg := rfl
@[simp] theorem State.setRng_stream (r : Ranging) : (s.setRng r).stream = s.stream := rfl
@[simp] theorem State.setRng_dec (r : Ranging) : (s.setRng r).dec = s.dec := rfl
@[simp] theorem State.setRng_lat (r : Ranging) : (s.setRng r).lat = s.lat := rfl
@[simp] theorem State.setRng_rcCmd (r : Ranging) : (s.setRng r).rcCmd = s.rcCmd := rfl
@[simp] theorem State.setRng_arb (r : Ranging) : (s.setRng r).arb = s.arb := rfl
@[simp] theorem State.setRng_inp (r : Ranging) : (s.setRng r).inp = s.inp := rfl
@[simp] theorem State.setRng_mot (r : Ranging) : (s.setRng r).mot = s.mot := rfl
@[simp] theorem State.setRng_srv (r : Ranging) : (s.setRng r).srv = s.srv := rfl
@[simp] theorem State.setRng_rng (r : Ranging) : (s.setRng r).rng = r := rfl
@[simp] theorem State.setRng_ill (r : Ranging) : (s.setRng r).ill = s.ill := rfl

@[simp] theorem raiseIllegal_cfg : (raiseIllegal s).cfg = s.cfg := rfl
@[simp] theorem raiseIllegal_stream : (raiseIllegal s).stream = s.stream := rfl
@[simp] theorem raiseIllegal_dec : (raiseIllegal s).dec = s.dec := rfl
@[simp] theorem raiseIllegal_lat : (raiseIllegal s).lat = s.lat := rfl
@[simp] theorem raiseIllegal_rcCmd : (raiseIllegal s).rcCmd = s.rcCmd := rfl
@[simp] theorem raiseIllegal_arb : (raiseIllegal s).arb = s.arb := rfl
@[simp] theorem raiseIllegal_inp : (raiseIllegal s).inp = s.inp := rfl
@[simp] theorem raiseIllegal_mot : (raiseIllegal s).mot = s.mot := rfl
@[simp] theorem raiseIllegal_srv : (raiseIllegal s).srv = s.srv := rfl
@[simp] theorem raiseIllegal_rng : (raiseIllegal s).rng = s.rng := rfl
@[simp] theorem raiseIllegal_ill : (raiseIllegal s).ill = true := rfl

@[simp] theorem resetBlock_cfg : (resetBlock s).cfg = s.cfg := rfl
@[simp] theorem resetBlock_stream : (resetBlock s).stream = s.stream := rfl
@[simp] theorem resetBlock_dec : (resetBlock s).dec = (State.initial s.cfg s.stream).dec := rfl
@[simp] theorem resetBlock_lat : (resetBlock s).lat = (State.initial s.cfg s.stream).lat := rfl
@[simp] theorem resetBlock_rcCmd : (resetBlock s).rcCmd = (State.initial s.cfg s.stream).rcCmd := rfl
@[simp] theorem resetBlock_arb : (resetBlock s).arb = (State.initial s.cfg s.stream).arb := rfl
@[simp] theorem resetBlock_inp : (resetBlock s).inp = (State.initial s.cfg s.stream).inp := rfl
@[simp] theorem resetBlock_mot : (resetBlock s).mot = (State.initial s.cfg s.stream).mot := rfl
@[simp] theorem resetBlock_srv : (resetBlock s).srv = (State.initial s.cfg s.stream).srv := rfl
@[simp] theorem resetBlock_rng : (resetBlock s).rng = (State.initial s.cfg s.stream).rng := rfl
@[simp] theorem resetBlock_ill : (resetBlock s).ill = (State.initial s.cfg s.stream).ill := rfl

@[simp] theorem present_cfg (w : Word) : (present s w).cfg = s.cfg := rfl
@[simp] theorem present_stream (w : Word) : (present s w).stream = w :: s.stream := rfl
@[simp] theorem present_dec (w : Word) : (present s w).dec = s.dec := rfl
@[simp] theorem present_lat (w : Word) : (present s w).lat = s.lat := rfl
@[simp] theorem present_rcCmd (w : Word) : (present s w).rcCmd = s.rcCmd := rfl
@[simp] theorem present_arb (w : Word) : (present s w).arb = s.arb := rfl
@[simp] theorem present_inp (w : Word) : (present s w).inp = s.inp := rfl
@[simp] theorem present_mot (w : Word) : (present s w).mot = s.mot := rfl
@[simp] theorem present_srv (w : Word) : (present s w).srv = s.srv := rfl
@[simp] theorem present_rng (w : Word) : (present s w).rng = s.rng := rfl
@[simp] theorem present_ill (w : Word) : (present s w).ill = s.ill := rfl

@[simp] theorem fetch_setStream_nil : fetch (s.setStream []) = none := rfl

@[simp] theorem fetch_setStream_cons (w : Word) (ws : List Word) :
    fetch (s.setStream (w :: ws)) = some (w, s.setStream ws) := rfl

/-- Taking the next stimulus: the stream's head, and the state with its tail. -/
theorem fetch_eq_some {w : Word} {t : State} (h : fetch s = some (w, t)) :
    s.stream = w :: t.stream ∧ t = s.setStream t.stream := by
  cases hs : s.stream with
  | nil => simp [fetch, hs] at h
  | cons a as =>
    simp only [fetch, hs, Option.some.injEq, Prod.mk.injEq] at h
    obtain ⟨rfl, rfl⟩ := h
    exact ⟨rfl, rfl⟩

/-- Presenting a word and taking the next stimulus gives it back with the state as it was. -/
@[simp] theorem fetch_present (w : Word) : fetch (present s w) = some (w, s) := rfl

@[simp] theorem State.setStream_stream_self : s.setStream s.stream = s := rfl

@[simp] theorem State.setStream_setStream (ws vs : List Word) :
    (s.setStream ws).setStream vs = s.setStream vs := rfl

end Sys2Proof.Machine
end

