-- ==== Sys2Proof/Laws/Units.lean ====
section
/-!
SUPPORT. For each shared operation, one lemma that says once what it can do.
-/

namespace Sys2Proof.Machine

/-! ## RC Decoder -/

/-- Every state rule of R44 to R53 ends in one of seven ways: back to Reset, a new session, a captured
bit, the next data bit's low phase, no change, a step of the start pulse, or a step among the states
that hold a frame. -/
theorem decRule_cases (p : Config.Params) (w : Int) (lvl : Bool) (d : Decoder) :
    decRule p w lvl d = enterReset d ∨
    (decRule p w lvl d = newSession d ∧ (d.state = .startRise ∨ d.state = .contRise1)) ∨
    (decRule p w lvl d = bitCapture p w d ∧ d.state = .recvFall) ∨
    (decRule p w lvl d = { d with state := .recvFall } ∧ d.state = .recvRise) ∨
    (decRule p w lvl d = d ∧ (d.state = .reset ∨ d.state = .contRise2)) ∨
    (∃ c, decRule p w lvl d = { d with state := c } ∧
      (d.state = .reset ∧ c = .startFall ∨ d.state = .startFall ∧ c = .startRise)) ∨
    (∃ c, decRule p w lvl d = { d with state := c } ∧
      (c = .contFall1 ∨ c = .contRise1 ∨ c = .contFall2 ∨ c = .contRise2) ∧
      (d.state = .contFall1 ∨ d.state = .contRise1 ∨ d.state = .contFall2 ∨
        d.state = .contRise2)) := by
  obtain ⟨st, te, bi, fr, rd⟩ := d
  cases st <;> cases lvl <;> simp only [decRule] <;>
    (try split) <;> (try split) <;> (try split) <;> simp

@[simp] theorem decStep_tEdge (p : Config.Params) (ts : Tick) (lvl : Bool) (d : Decoder) :
    (decStep p ts lvl d).tEdge = ts := rfl

/-- A command other than Stop is given only for a ready frame (R61). -/
theorem lookup_not_ready (frame : BitVec 8) : lookup false frame = .stop := rfl

/-! ## Output Scheduler -/

/-- The sub-cycle counter counts modulo `TotalWidth`. -/
theorem nextSubCnt_toNat (p : Config.Params) (c : BitVec 16)
    (h : c.toNat < p.totalWidth.ticks.toNat) :
    (nextSubCnt p c).toNat =
      if c.toNat + 1 = p.totalWidth.ticks.toNat then 0 else c.toNat + 1 := by
  have hT := p.totalWidth.ticks.isLt
  have hc : (c + 1).toNat = c.toNat + 1 := by
    rw [BitVec.toNat_add]; simp; omega
  unfold nextSubCnt
  by_cases he : c.toNat + 1 = p.totalWidth.ticks.toNat
  · rw [if_pos he, if_pos (BitVec.eq_of_toNat_eq (by rw [hc, he]))]; rfl
  · rw [if_neg he, if_neg (fun hq => he (by rw [← hc, hq])), hc]

/-! ## Ranging Controller -/

/-- Every ranging action is one of fire, wait, classify and advance, by the current record. -/
theorem rangingAction_cases (p : Config.Params) (now : Tick) (r : Ranging) :
    ((r.rs.get r.cur).phase = .probeOut ∧ (r.rs.get r.cur).sent = false ∧
      rangingAction p now r = fire p now r.cur r) ∨
    ((r.rs.get r.cur).phase = .probeOut ∧ (r.rs.get r.cur).sent = true ∧
      rangingAction p now r = r) ∨
    ((r.rs.get r.cur).phase = .probeIn ∧ (r.rs.get r.cur).finished = true ∧
      rangingAction p now r = advance r.cur r) ∨
    ((r.rs.get r.cur).phase = .probeIn ∧ (r.rs.get r.cur).finished = false ∧
      (r.rs.get r.cur).feedback = true ∧ rangingAction p now r = classify p r.cur r) ∨
    ((r.rs.get r.cur).phase = .probeIn ∧ (r.rs.get r.cur).finished = false ∧
      (r.rs.get r.cur).feedback = false ∧ rangingAction p now r = r) := by
  unfold rangingAction
  cases (r.rs.get r.cur).phase <;> cases (r.rs.get r.cur).sent <;>
    cases (r.rs.get r.cur).finished <;> cases (r.rs.get r.cur).feedback <;> simp

theorem echoTaken_iff (r : Ranging) (s : Sensor) :
    echoTaken r s = true ↔
      s = r.cur ∧ (r.rs.get s).phase = .probeIn ∧ (r.rs.get s).feedback = false := by
  simp [echoTaken, and_assoc]

theorem trigTaken_iff (r : Ranging) :
    trigTaken r = true ↔
      r.armed = true ∧ (r.rs.get r.cur).phase = .probeOut ∧ (r.rs.get r.cur).sent = true := by
  simp [trigTaken, and_assoc]

/-- An echo edge changes nothing in the ranging registers but the records. -/
theorem echoEdge_eq (s : Sensor) (lvl : Bool) (ts : Tick) (r : Ranging) :
    ∃ rs, echoEdge s lvl ts r = { r with rs := rs } ∧ ∀ x, x ≠ s → rs.get x = r.rs.get x := by
  unfold echoEdge
  split
  · exact ⟨_, rfl, fun x hx => PerSensor.get_set_ne _ _ hx⟩
  · exact ⟨r.rs, rfl, fun _ _ => rfl⟩

/-! ## POLL -/

/-- The decoder registers after the pending edge, if any, is stepped. -/
def steppedDec (s : State) : Decoder :=
  if s.lat.pend then decStep s.cfg s.lat.ts s.lat.lvl s.dec else s.dec

theorem consumeEdge_eq (s : State) :
    consumeEdge s = (s.setDec (steppedDec s)).setLat { s.lat with pend := false } := by
  obtain ⟨cfg, stream, dec, ⟨ts, lvl, pend, ovr⟩, rcCmd, arb, inp, mot, srv, rng, ill⟩ := s
  cases pend <;> rfl

/-- What a POLL does, register by register (R103). -/
theorem execPoll_next (now : Tick) (s : State) :
    ∃ t, execPoll now s = .next t ∧
      t.cfg = s.cfg ∧ t.stream = s.stream ∧ t.inp = s.inp ∧ t.mot = s.mot ∧ t.srv = s.srv ∧
      t.ill = s.ill ∧ t.lat = { s.lat with pend := false } ∧
      t.dec = voidCheck s.cfg now s.lat (steppedDec s) ∧
      t.rcCmd = lookup t.dec.ready t.dec.frame ∧
      t.arb = arbiterStep s.cfg s.inp t.rcCmd s.arb ∧
      t.rng = rangingStep s.cfg now s.rng := by
  refine ⟨_, rfl, ?_⟩
  rw [consumeEdge_eq]
  exact ⟨rfl, rfl, rfl, rfl, rfl, rfl, rfl, rfl, rfl, rfl, rfl⟩

/-! ## SET_IN -/

/-- A port write sets the input registers or `ill`, and nothing else. -/
theorem writePort_cases {α : Type} (v : Option α) (put : α → Inputs) (s : State) :
    (∃ a, v = some a ∧ writePort v put s = s.setInp (put a)) ∨
    (v = none ∧ writePort v put s = raiseIllegal s) := by
  cases v with
  | none => exact .inr ⟨rfl, rfl⟩
  | some a => exact .inl ⟨a, rfl, rfl⟩

end Sys2Proof.Machine
end

