-- ==== Sys2Proof/Laws/Step.lean ====
section
/-!
SUPPORT. What one stimulus and one step can do, said once, and how a run over a stream unfolds.
-/

namespace Sys2Proof.Machine

/-- Every stimulus is one of eight kinds, each with its next state (R101). -/
theorem exec_cases (i : Instr) (s : State) :
    (∃ lvl ts, i = .rcEdge lvl ts ∧
      exec i s = .next (s.setLat { ts := ts, lvl := lvl, pend := true, ovr := overrun s.lat })) ∨
    (∃ x lvl ts, i = echoInstr x lvl ts ∧
      exec i s = .next (s.setRng (echoEdge x lvl ts s.rng))) ∨
    (∃ tick, i = .cmpMatchMotor tick ∧
      exec i s = .next (s.setMot (motorEvent s.cfg s.arb.motorCmd s.mot))) ∨
    (∃ tick, i = .cmpMatchServo tick ∧
      exec i s = .next (s.setSrv (servoEvent s.cfg s.inp s.srv))) ∨
    (∃ tick, i = .cmpMatchTrig tick ∧ exec i s = .next (s.setRng (trigEvent s.rng))) ∨
    (∃ now, i = .poll now ∧ exec i s = execPoll now s) ∨
    (isSetIn i = true ∧
      ((∃ x, exec i s = .next (s.setInp x)) ∨ exec i s = .next (raiseIllegal s))) ∨
    (i = .reset ∧ exec i s = .next (resetBlock s)) := by
  have port : ∀ {α : Type} (v : Option α) (put : α → Inputs),
      (∃ x, Host.Outcome.next (φ := Fault) (ρ := Refusal) (writePort v put s) = .next (s.setInp x)) ∨
        Host.Outcome.next (φ := Fault) (ρ := Refusal) (writePort v put s) =
          .next (raiseIllegal s) := by
    intro α v put
    rcases writePort_cases v put s with ⟨a, -, h⟩ | ⟨-, h⟩ <;> rw [h]
    · exact .inl ⟨_, rfl⟩
    · exact .inr rfl
  cases i with
  | rcEdge lvl ts => exact .inl ⟨lvl, ts, rfl, rfl⟩
  | echoEdgeL lvl ts => exact .inr (.inl ⟨.left, lvl, ts, rfl, rfl⟩)
  | echoEdgeC lvl ts => exact .inr (.inl ⟨.center, lvl, ts, rfl, rfl⟩)
  | echoEdgeR lvl ts => exact .inr (.inl ⟨.right, lvl, ts, rfl, rfl⟩)
  | cmpMatchMotor tick => exact .inr (.inr (.inl ⟨tick, rfl, rfl⟩))
  | cmpMatchServo tick => exact .inr (.inr (.inr (.inl ⟨tick, rfl, rfl⟩)))
  | cmpMatchTrig tick => exact .inr (.inr (.inr (.inr (.inl ⟨tick, rfl, rfl⟩))))
  | poll now => exact .inr (.inr (.inr (.inr (.inr (.inl ⟨now, rfl, rfl⟩)))))
  | reset => exact .inr (.inr (.inr (.inr (.inr (.inr (.inr ⟨rfl, rfl⟩))))))
  | _ => exact .inr (.inr (.inr (.inr (.inr (.inr (.inl ⟨rfl, port _ _⟩))))))

/-- A step waits, runs the decoded stimulus, or takes the illegal-stimulus exception. -/
theorem step_cases (s : State) :
    (s.stream = [] ∧ step s = .next s) ∨
    (∃ w ws i, s.stream = w :: ws ∧ decode w = .ok i ∧ step s = exec i (s.setStream ws)) ∨
    (∃ w ws e, s.stream = w :: ws ∧ decode w = .error e ∧
      step s = .next (raiseIllegal (s.setStream ws))) := by
  cases hs : s.stream with
  | nil => exact .inl ⟨rfl, by simp only [step, fetch, hs]⟩
  | cons w ws =>
    cases hd : decode w with
    | ok i => exact .inr (.inl ⟨w, ws, i, rfl, hd, by simp only [step, fetch, hs, hd]⟩)
    | error e => exact .inr (.inr ⟨w, ws, e, rfl, hd, by simp only [step, fetch, hs, hd]⟩)

/-- A step at a stream with a first word. -/
theorem step_facing (s : State) (w : Word) (ws : List Word) :
    (∃ i, decode w = .ok i ∧ step (s.facing (w :: ws)) = exec i (s.facing ws)) ∨
    (∃ e, decode w = .error e ∧ step (s.facing (w :: ws)) = .next (raiseIllegal (s.facing ws))) := by
  rcases step_cases (s.facing (w :: ws)) with ⟨h, -⟩ | ⟨_, _, i, h, hd, he⟩ | ⟨_, _, e, h, hd, he⟩
  · cases h
  · cases h; exact .inl ⟨i, hd, he⟩
  · cases h; exact .inr ⟨e, hd, he⟩

/-- A run of no steps. -/
theorem run_zero (s : State) : run 0 s = .next s := rfl

/-- A run goes on from the next state of its first step. -/
theorem run_succ {s t : State} (n : Nat) (h : step s = .next t) : run (n + 1) s = run n t := by
  show Host.Core.run Sys2Proof.core (n + 1) s = Host.Core.run Sys2Proof.core n t
  have h' : Sys2Proof.core.step s = .next t := h
  simp only [Host.Core.run, h']

/-- A run of `m` and then `n` steps. -/
theorem run_add {s t : State} (m n : Nat) (h : run m s = .next t) : run (m + n) s = run n t := by
  induction m generalizing s with
  | zero =>
    rw [run_zero] at h
    injection h with h
    rw [Nat.zero_add, h]
  | succ m ih =>
    obtain ⟨u, hu⟩ : ∃ u, step s = .next u := by
      cases hs : step s with
      | next u => exact ⟨u, rfl⟩
      | fault f => cases f
      | refused r =>
        have h' : Sys2Proof.core.step s = .refused r := hs
        have hr : run (m + 1) s = .refused r := by
          show Host.Core.run Sys2Proof.core (m + 1) s = .refused r
          simp only [Host.Core.run, h']
        rw [hr] at h
        cases h
    rw [run_succ m hu] at h
    rw [Nat.add_right_comm, run_succ _ hu, ih h]

/-- The model runs the block over a stream of stimuli, and refuses any other by its first illegal word. -/
theorem runStream_cases (s : State) (ws : List Word) :
    (allLegal ws = true ∧ runStream s ws = run ws.length (s.facing ws)) ∨
    ∃ before w after, ws = before ++ w :: after ∧ allLegal before = true ∧ isLegalWord w = false ∧
      runStream s ws = .refused (.illegalStream w) := by
  unfold runStream
  cases h : ws.find? (fun w => !isLegalWord w) with
  | none =>
    refine .inl ⟨List.all_eq_true.mpr fun w hw => ?_, rfl⟩
    simpa using List.find?_eq_none.mp h w hw
  | some w =>
    obtain ⟨hw, before, rest, rfl, hb⟩ := List.find?_eq_some_iff_append.mp h
    refine .inr ⟨before, w, rest, rfl, List.all_eq_true.mpr fun x hx => ?_, by simpa using hw, rfl⟩
    simpa using hb x hx

/-- A word is legal exactly where it decodes to a stimulus. -/
theorem isLegalWord_iff (w : Word) : isLegalWord w = true ↔ ∃ i, decode w = .ok i := by
  unfold isLegalWord
  cases decode w <;> simp [Except.toOption]

end Sys2Proof.Machine
end

