-- ==== Sys2Proof/Tests/Slice0.lean ====
section
/-!
SUPPORT. Tests. Expected results come from `spec/95_test_vectors.md` or are worked out by hand from the
rules, under the example configuration EX1 (`Config.ex1`); `L2.x` and `Ex` name the vectors. The last
part holds one witness per obligation with hypotheses: a state and operands that meet them.
-/

namespace Sys2Proof.Tests

open Sys2Proof Sys2Proof.Machine

/-! ## Helpers -/

/-- The reset state under EX1. -/
def base : State := State.initial Config.ex1 []

/-- The next state, if the outcome is one. -/
def nextOf (o : Host.Outcome State Fault Refusal) : Option State :=
  match o with
  | .next s => some s
  | _ => none

/-- What `f` reads of the state after stimulus `i`. -/
def after {α : Type} (i : Instr) (s : State) (f : State → α) : Option α := (nextOf (exec i s)).map f

/-- What `f` reads of the state after the word `w` is stepped. -/
def afterWord {α : Type} (w : Word) (s : State) (f : State → α) : Option α :=
  (nextOf (step (present s w))).map f

def named (r : Except DecodeError Instr) : Option DecodeError :=
  match r with
  | .ok _ => none
  | .error e => some e

/-- A decoder that saw its last edge at tick 1000 (L2.3), with an edge pending `d` ticks later. -/
def edgeState (st : DecState) (bitIdx : BitVec 6) (frame : BitVec 8) (lvl : Bool) (d : Tick) : State :=
  { base with
    dec := { state := st, tEdge := 1000, bitIdx := bitIdx, frame := frame, ready := holdsFrame st }
    lat := { ts := 1000 + d, lvl := lvl, pend := true, ovr := false } }

/-- The decoder after a POLL at the time of the pending edge of `edgeState`, as L2.3 lists it. -/
def edgeResult (st : DecState) (bitIdx : BitVec 6) (frame : BitVec 8) (lvl : Bool) (d : Tick) :
    Option (DecState × BitVec 6 × BitVec 8 × Command) :=
  after (.poll (1000 + d)) (edgeState st bitIdx frame lvl d)
    (fun t => (t.dec.state, t.dec.bitIdx, t.dec.frame, t.rcCmd))

/-- A frame held in ContRise2 and silent since tick 10000. -/
def held (frame : BitVec 8) (prev : Command) : State :=
  { base with
    dec := { state := .contRise2, tEdge := 10000, bitIdx := 32, frame := frame, ready := true }
    lat := { ts := 10000, lvl := true, pend := false, ovr := false }
    rcCmd := prev
    arb := { base.arb with prevCmd := prev } }

/-- Ranging at sensor `x`, its record in ProbeIn with the pair `rise`, `fall` captured or classified. -/
def ranged (x : Sensor) (finished feedback : Bool) (rise fall : Tick) : State :=
  { base with rng := { base.rng with
      cur := x
      rs := base.rng.rs.set x
        { phase := .probeIn, sent := true, finished := finished, feedback := feedback,
          riseSeen := feedback, riseTs := rise, fallTs := fall } } }

/-- Ranging at sensor `x` with its trigger pulse running. -/
def pulsing (x : Sensor) : State :=
  { base with rng := { base.rng with
      cur := x
      rs := base.rng.rs.set x { base.rng.rs.get x with sent := true }
      armed := true } }

/-- Left classified as an obstacle, the pulse still up. -/
def obstacleState : State :=
  { ranged .left true true 5000 6001 with
    rng := { (ranged .left true true 5000 6001).rng with
      obstacle := true, obsSensor := .left, obsDir := .right
      coll := { left := true, center := false, right := false } } }

/-- No word of the stream is of class `p`. -/
theorem forall_of_any {p : Word → Bool} {ws : List Word} (h : ws.any p = false) :
    ∀ w ∈ ws, p w = false :=
  fun w hw => Bool.eq_false_iff.mpr (List.any_eq_false.mp h w hw)

/-! ## WellFormed refuses each ill-formed term -/

theorem test_illformed_modeSel : (Instr.setInModeSel 2).wellFormed = false := by decide
theorem test_illformed_manTrig : (Instr.setInManTrig 2).wellFormed = false := by decide
theorem test_illformed_autoPull : (Instr.setInAutoPull 0x8000).wellFormed = false := by decide
theorem test_illformed_target : (Instr.setInTarget 0x0100).wellFormed = false := by decide
theorem test_illformed_evadeCmd : (Instr.setInEvadeCmd 5).wellFormed = false := by decide
theorem test_wellformed_bounds :
    (Instr.setInModeSel 1).wellFormed = true ∧ (Instr.setInEvadeCmd 4).wellFormed = true ∧
      (Instr.setInServoW0 65535).wellFormed = true := by decide

/-! ## Decode, on words written out field by field: OP, SEL, RSV, LVL, then the 16 low bits -/

theorem test_decode_rcEdge :
    decode 0b0001_0000_0000000_1_0000001001011000#32 = .ok (.rcEdge true 600) := by decide
theorem test_decode_echoEdgeL :
    decode 0b0010_0000_0000000_1_0000110000011100#32 = .ok (.echoEdgeL true 3100) := by decide
theorem test_decode_echoEdgeC :
    decode 0b0010_0001_0000000_1_0000101111010110#32 = .ok (.echoEdgeC true 3030) := by decide
theorem test_decode_echoEdgeR :
    decode 0b0010_0010_0000000_0_0000000000000001#32 = .ok (.echoEdgeR false 1) := by decide
theorem test_decode_cmpMatchMotor :
    decode 0b0011_0000_0000000_0_0000010011010010#32 = .ok (.cmpMatchMotor 1234) := by decide
theorem test_decode_cmpMatchServo :
    decode 0b0011_0001_0000000_0_1000000000000000#32 = .ok (.cmpMatchServo 32768) := by decide
theorem test_decode_cmpMatchTrig :
    decode 0b0011_0010_0000000_0_1111111111111111#32 = .ok (.cmpMatchTrig 65535) := by decide
theorem test_decode_poll :
    decode 0b0100_0000_0000000_0_0001001110001001#32 = .ok (.poll 5001) := by decide
theorem test_decode_setInModeSel :
    decode 0b0101_0000_0000000_0_0000000000000001#32 = .ok (.setInModeSel 1) := by decide
theorem test_decode_setInManTrig :
    decode 0b0101_0001_0000000_0_0000000000000001#32 = .ok (.setInManTrig 1) := by decide
theorem test_decode_setInAutoPull :
    decode 0b0101_0010_0000000_0_0000000000000000#32 = .ok (.setInAutoPull 0) := by decide
theorem test_decode_setInTarget :
    decode 0b0101_0011_0000000_0_0000000000000001#32 = .ok (.setInTarget 1) := by decide
theorem test_decode_setInEvadeCmd :
    decode 0b0101_0100_0000000_0_0000000000000100#32 = .ok (.setInEvadeCmd 4) := by decide
theorem test_decode_setInServoW0 :
    decode 0b0101_0101_0000000_0_0000000000000011#32 = .ok (.setInServoW0 3) := by decide
theorem test_decode_setInServoW1 :
    decode 0b0101_0110_0000000_0_1111111111111111#32 = .ok (.setInServoW1 65535) := by decide
theorem test_decode_reset :
    decode 0b0110_0000_0000000_0_0000000000000000#32 = .ok .reset := by decide

/-- The illegal words of L2.10 and L2.11. -/
theorem test_decode_illegal :
    [0x00000000#32, 0x70000000, 0xF0000000, 0x11000000, 0x23000000, 0x30010000, 0x33000000,
      0x41000000, 0x40010000, 0x60000001, 0x61000000, 0x10020000, 0x40800000, 0x50000002,
      0x54000005, 0x57000000, 0x50010000, 0x55020000].map (fun w => named (decode w)) =
    [some .reservedOp, some .reservedOp, some .reservedOp, some .badSelect, some .badSelect,
      some .badLevel, some .badSelect, some .badSelect, some .badLevel, some .resetOperand,
      some .resetOperand, some .reservedBits, some .reservedBits, some .badValue, some .badValue,
      some .badSelect, some .badLevel, some .reservedBits] := by decide

/-- R202: bits 7:0 of the word at the lowest byte offset; R204: three bytes are no stimulus. -/
theorem test_stored_bytes :
    (decodeBytes [0x58, 0x02, 0x01, 0x10, 0xAA] = .ok (.rcEdge true 600, [0xAA])) ∧
      decodeBytes [0x58, 0x02, 0x01] = .error .partialWord := by decide

theorem test_decodeTableWord :
    decodeTableWord 32 0x54000004 = some (.setInEvadeCmd 4) ∧ decodeTableWord 32 0x54000005 = none := by
  decide

/-- R204: a word of another width is not a stimulus, though its bits be those of a legal word. -/
theorem test_other_widths :
    decodeTableWord 31 0x40000001 = none ∧ decodeTableWord 40 0x40000001 = none ∧
      decodeTableWord 32 0x140000001 = none ∧ base.withFetchWord 31 0x40000001 = base ∧
      base.withFetchWord 32 0x40000001 = present base 0x40000001 := by decide

/-- P5, lines 1 and 2 (`95_test_vectors.md`): the model refuses a stream with an illegal word, and the
block's own rules record `ill` and go on. -/
theorem test_illegal_stream :
    (match runStream base [0x40000064, 0x70000000, 0x50000002] with
      | .refused (.illegalStream w) => w == 0x70000000
      | _ => false) = true ∧
    (nextOf (run 3 (base.facing [0x40000064, 0x70000000, 0x50000002]))).map (·.ill) = some true ∧
    (nextOf (runStream base [0x40000064, 0x50000001])).map (·.ill) = some false := by decide

/-! ## Ticks (L2.1) and the assembler (R227 to R229) -/

theorem test_sdiff :
    [Machine.sdiff 0 65535, Machine.sdiff 0 1, Machine.sdiff 32767 0, Machine.sdiff 32768 0, Machine.sdiff 0 32768,
      Machine.sdiff 100 65436, Machine.sdiff 65436 100,
      Machine.sdiff 5000 65535] = [1, -1, 32767, -32768, -32768, 200, -200, 5001] := by
  decide

/-- Program P1, its first macro line. -/
theorem test_assemble_rcstart :
    assembleLine "RCSTART 64800, 500, 300 ; start" =
      .ok [0x1000FD20, 0x4000FD20, 0x1001FF14, 0x4000FF14] := by decide

theorem test_assemble_setIn :
    assembleLine "SET_IN EVADE_CMD, FORWARD" = .ok [0x54000001] ∧
      assembleLine "ECHO_RISE C, 0xBD6" = .ok [0x21010BD6] := by decide

/-! ## One stimulus at a time -/

/-- L2.2, first row. -/
theorem test_rcEdge_latches :
    after (.rcEdge false 1000) base (·.lat) =
      some { ts := 1000, lvl := false, pend := true, ovr := false } := by decide

/-- L2.2: RC_FALL 100, RC_RISE 600 with no POLL between. -/
theorem test_rcEdge_overrun :
    after (.rcEdge true 600) (edgeState .reset 0 0 false 100) (·.lat) =
      some { ts := 600, lvl := true, pend := true, ovr := true } := by decide

/-- L2.8 row 7: a second rise replaces. -/
theorem test_echoEdgeL_second_rise :
    after (.echoEdgeL true 3150) (ranged .left false false 3100 0) (·.rng.rs.left.riseTs) =
      some 3150 := by decide

/-- L2.8 row 4: a fall without a rise is ignored. -/
theorem test_echoEdgeL_fall_first :
    after (.echoEdgeL false 3020) (ranged .left false false 0 0) (·.rng) =
      some (ranged .left false false 0 0).rng := by decide

/-- L2.8 row 5: another sensor is ignored. -/
theorem test_echoEdgeC_other_sensor :
    after (.echoEdgeC true 3030) (ranged .left false false 0 0) (·.rng) =
      some (ranged .left false false 0 0).rng := by decide

/-- L2.8 row 10, for Right: an edge after the pair is ignored. -/
theorem test_echoEdgeR_after_pair :
    after (.echoEdgeR false 4300) (ranged .right false true 3150 4151) (·.rng.rs.right.fallTs) =
      some 4151 := by decide

/-- L2.6: cmp0 wraps, Forward enables in the high phase. -/
theorem test_motor_wraps :
    after (.cmpMatchMotor 0)
      { base with arb := { base.arb with motorCmd := .forward },
                  mot := { cmp := 65000, high := false, en := false } } (·.mot) =
      some { cmp := 364, high := true, en := true } := by decide

/-- L2.6, second event of the first row. -/
theorem test_motor_low :
    after (.cmpMatchMotor 1234) { base with mot := { cmp := 900, high := true, en := true } } (·.mot) =
      some { cmp := 1000, high := false, en := false } := by decide

/-- L2.7: event 10 with widths 3 and 7, and cmp1 = 65500 to 64. -/
theorem test_servo_wraps :
    after (.cmpMatchServo 0)
      { base with inp := { base.inp with servoW0 := 3, servoW1 := 10 },
                  srv := { cmp := 65500, subCnt := 9, out0 := true, out1 := false } } (·.srv) =
      some { cmp := 64, subCnt := 0, out0 := false, out1 := true } := by decide

/-- E5 at its boundary: the sub-cycle W - 1 is high and W is low. -/
theorem test_servo_boundary :
    [4, 5].map (fun c => after (.cmpMatchServo 0)
      { base with inp := { base.inp with servoW0 := 5 },
                  srv := { base.srv with subCnt := BitVec.ofNat 16 c } } (·.srv.out0)) =
      [some true, some false] := by decide

/-- L2.8 row 3: the pulse ends and channel 2 is disarmed. -/
theorem test_trig_ends_pulse :
    after (.cmpMatchTrig 0) (pulsing .left)
      (fun t => (t.rng.rs.left.phase, t.rng.armed, trigOe t.rng .left)) =
      some (.probeIn, false, false) := by decide

/-- L2.8 row 15: a spurious event is ignored, ill included. -/
theorem test_trig_spurious :
    after (.cmpMatchTrig 0) (ranged .center false false 0 0) id =
      some (ranged .center false false 0 0) := by decide

/-- L2.8 row 1, across the wrap: from reset, POLL 65530 gives cmp2 = 4. -/
theorem test_poll_fires :
    after (.poll 65530) base (fun t => (t.rng.cmp, t.rng.armed, trigOut t.rng .left)) =
      some (4, true, true) := by decide

/-- L2.9: the second POLL of a held Zero does not toggle again. -/
theorem test_poll_zero_once :
    after (.poll 10000) (held 0b010 .stop) (fun t => (t.rcCmd, t.arb.autoToggle)) =
        some (.zero, true) ∧
      after (.poll 10000) (held 0b010 .zero) (fun t => (t.rcCmd, t.arb.autoToggle)) =
        some (.zero, false) := by decide

/-- L2.10: the bounds of a boolean port. -/
theorem test_setIn_modeSel :
    after (.setInModeSel 1) base (fun t => (t.inp.modeSel, t.ill)) = some (true, false) ∧
      after (.setInModeSel 2) base (fun t => (t.inp.modeSel, t.ill)) = some (false, true) := by
  decide

theorem test_setIn_manTrig :
    after (.setInManTrig 1) base (·.inp) = some { base.inp with manTrig := true } := by decide
theorem test_setIn_autoPull :
    after (.setInAutoPull 1) base (·.inp) = some { base.inp with autoPull := true } := by decide
theorem test_setIn_target :
    after (.setInTarget 1) base (·.inp) = some { base.inp with target := true } := by decide

/-- L2.10: the bounds of EVADE_CMD. -/
theorem test_setIn_evadeCmd :
    after (.setInEvadeCmd 4) base (·.inp) = some { base.inp with evadeCmd := .turnRight } ∧
      after (.setInEvadeCmd 5) base (fun t => (t.inp, t.ill)) = some (base.inp, true) := by decide

theorem test_setIn_servoW0 :
    after (.setInServoW0 3) base (·.inp) = some { base.inp with servoW0 := 3 } := by decide
theorem test_setIn_servoW1 :
    after (.setInServoW1 65535) base (·.inp) = some { base.inp with servoW1 := 65535 } := by decide

theorem test_reset : after .reset obstacleState id = some base := by decide

theorem test_step_illegal_word :
    afterWord 0x70000000 obstacleState id = some { obstacleState with ill := true } := by decide

/-- The status code after reset and after a POLL (R26, R84). -/
theorem test_status_port :
    (outputs base).status = 0 ∧ after (.poll 0) base (fun t => (outputs t).status) = some 1 := by
  decide

/-! ## Witnesses: states and operands that meet the hypotheses of the obligations -/

theorem witness_DecodeOfEncodeIsTheStimulus :
    (Instr.setInEvadeCmd 4).wellFormed = true ∧ (Instr.setInTarget 0).wellFormed = true := by decide

theorem witness_EncodeOfDecodeIsTheWord : decode 0x22010000#32 = .ok (.echoEdgeR true 0) := by decide

/-- A word of each kind, and a word of each bullet of R224. -/
theorem witness_IllegalWordsAreExactlyTheListed :
    decode 0x11000000#32 = .error .badSelect ∧ decode 0x56000000#32 = .ok (.setInServoW1 0) ∧
      decode 0x60000001#32 = .error .resetOperand ∧ decode 0x00800000#32 = .error .reservedBits := by
  decide

/-- Three bytes, five bytes, and the widths next to 32; a value one too large for 32 bits. -/
theorem witness_StoredWordsAreWholeAndLittleEndian :
    ([1, 2, 3] : List Byte).length < 4 ∧ ([1, 2, 3, 4, 5] : List Byte).length % 4 ≠ 0 ∧
      (31 ≠ 32 ∨ 2 ^ 32 ≤ 0) ∧ (33 ≠ 32 ∨ 2 ^ 32 ≤ 0) ∧ (32 ≠ 32 ∨ 2 ^ 32 ≤ 4294967296) ∧
      streamOfBytes [0x58, 0x02, 0x01, 0x10, 0x58, 0x02, 0x00, 0x40] =
        .ok [0x10010258, 0x40000258] := by decide

theorem witness_StepRunsTheDecodedStimulus :
    (present base 0x40001389).stream = 0x40001389 :: [] ∧ decode 0x40001389 = .ok (.poll 5001) ∧
      nextOf (step (present base 0x40001389)) = nextOf (exec (.poll 5001) base) := by decide

theorem witness_IllegalStimulusOnlySetsIll :
    (present base 0x57000000).stream = 0x57000000 :: [] ∧ decode 0x57000000 = .error .badSelect := by
  decide

theorem witness_StepWaitsWithoutStimulus : base.stream = [] ∧ nextOf (step base) = some base := by
  decide

/-- Intervals of 32767, 32768 and 65535 ticks, the first across the wrap. -/
theorem witness_LongIntervalsAlias :
    nearTimes 65000 97767 ∧ (32768 ≤ 33768 - 1000 ∧ 33768 - 1000 < 65536) ∧
      (32768 ≤ 66535 - 1000 ∧ 66535 - 1000 < 65536) ∧
      sdiff (BitVec.ofNat 16 97767) (BitVec.ofNat 16 65000) = 32767 ∧
      sdiff (BitVec.ofNat 16 33768) (BitVec.ofNat 16 1000) = -32768 ∧
      sdiff (BitVec.ofNat 16 66535) (BitVec.ofNat 16 1000) = -1 := by
  unfold nearTimes; decide

theorem witness_RcEdgeLatchesTheEdge :
    0x1001FFFF#32 &&& 0xFFFE0000#32 = 0x10000000#32 ∧ 0x10000000#32 &&& 0xFFFE0000#32 = 0x10000000#32 ∧
      decode 0x1001FFFF = .ok (.rcEdge true 65535) := by decide

theorem witness_RcOvrRecordsALostEdge :
    Instr.rcEdge true 600 ≠ .reset ∧ (edgeState .reset 0 0 false 100).lat.pend = true := by decide

/-- L2.3 rows 1 to 8, 31 and 32, with the hypotheses: an edge is pending and there is no timeout. -/
theorem witness_PollStepsTheStartPulse :
    (edgeState .startFall 0 0 true 401).lat.pend = true ∧
    sdiff 1401 (edgeState .startFall 0 0 true 401).lat.ts ≤ (Config.ex1.voidSilence.val : Int) ∧
    [edgeResult .reset 0 0 false 500, edgeResult .reset 0 0 true 500,
      edgeResult .startFall 0 0 true 401, edgeResult .startFall 0 0 true 400,
      edgeResult .startFall 0 0 false 500, edgeResult .startRise 0 0 false 201,
      edgeResult .startRise 0 0 false 200, edgeResult .startRise 0 0 true 500,
      edgeResult .startRise 0 0 false 40000, edgeResult .startFall 0 0 true 40000] =
    [some (.startFall, 0, 0, .stop), some (.reset, 0, 0, .stop), some (.startRise, 0, 0, .stop),
      some (.reset, 0, 0, .stop), some (.reset, 0, 0, .stop), some (.recvFall, 0, 0, .stop),
      some (.reset, 0, 0, .stop), some (.reset, 0, 0, .stop), some (.reset, 0, 0, .stop),
      some (.reset, 0, 0, .stop)] := by decide

/-- L2.3 rows 9 to 17: bit positions 15, 16, 18, 19 and 31, widths at the threshold. -/
theorem witness_PollReceivesDataBits :
    (edgeState .recvFall 31 3 true 20).lat.pend = true ∧
    sdiff 1020 (edgeState .recvFall 31 3 true 20).lat.ts ≤ (Config.ex1.voidSilence.val : Int) ∧
    (edgeState .recvFall 31 3 true 20).dec.bitIdx.toNat ≤ 31 ∧
    [edgeResult .recvFall 16 0 true 51, edgeResult .recvFall 16 0 true 50,
      edgeResult .recvFall 15 0 true 100, edgeResult .recvFall 18 3 true 100,
      edgeResult .recvFall 19 3 true 100, edgeResult .recvFall 31 3 true 20,
      edgeResult .recvFall 5 0 false 100, edgeResult .recvRise 5 0 false 30,
      edgeResult .recvRise 5 0 true 30] =
    [some (.recvRise, 17, 1, .stop), some (.recvRise, 17, 0, .stop), some (.recvRise, 16, 0, .stop),
      some (.recvRise, 19, 7, .stop), some (.recvRise, 20, 3, .stop),
      some (.contRise2, 32, 3, .right), some (.reset, 0, 0, .stop), some (.recvFall, 5, 0, .stop),
      some (.reset, 0, 0, .stop)] := by decide

/-- L2.3 rows 18 to 30. -/
theorem witness_PollContinuesASession :
    (edgeState .contRise1 32 3 false 101).lat.pend = true ∧
    sdiff 1101 (edgeState .contRise1 32 3 false 101).lat.ts ≤ (Config.ex1.voidSilence.val : Int) ∧
    [edgeResult .contRise2 32 3 false 2000, edgeResult .contRise2 32 3 true 2000,
      edgeResult .contFall1 32 3 true 401, edgeResult .contFall1 32 3 true 400,
      edgeResult .contFall1 32 3 false 500, edgeResult .contRise1 32 3 false 201,
      edgeResult .contRise1 32 3 false 200, edgeResult .contRise1 32 3 false 101,
      edgeResult .contRise1 32 3 false 100, edgeResult .contRise1 32 3 true 150,
      edgeResult .contFall2 32 3 true 30, edgeResult .contFall2 32 3 false 30] =
    [some (.contFall1, 32, 3, .right), some (.contRise2, 32, 3, .right),
      some (.contRise1, 32, 3, .right), some (.contFall2, 32, 3, .right),
      some (.contFall2, 32, 3, .right), some (.recvFall, 0, 0, .stop),
      some (.contFall2, 32, 3, .right), some (.contFall2, 32, 3, .right), some (.reset, 0, 0, .stop),
      some (.contFall2, 32, 3, .right), some (.contRise2, 32, 3, .right),
      some (.contFall1, 32, 3, .right)] := by decide

/-- L2.3 rows 24 and 27, and a build whose window is empty. -/
theorem witness_ContinuationWindowIsBetweenTheThresholds :
    (edgeState .contRise1 32 3 false 200).lat.pend = true ∧
    (edgeState .contRise1 32 3 false 200).lat.lvl = false ∧
    sdiff 1200 (edgeState .contRise1 32 3 false 200).lat.ts ≤ (Config.ex1.voidSilence.val : Int) ∧
    windowOpen { Config.ex1 with contIdle := 200 } = false ∧ windowOpen Config.ex1 = true := by decide

/-- L2.4: silences of 5000 and 5001 ticks, and one that has aliased. -/
theorem witness_VoidTimeoutResetsTheDecoder :
    sdiff 15000 (held 3 .right).lat.ts ≤ (Config.ex1.voidSilence.val : Int) ∧
    (Config.ex1.voidSilence.val : Int) < sdiff 15001 (held 3 .right).lat.ts ∧
    after (.poll 15000) (held 3 .right) (·.dec) = some (held 3 .right).dec ∧
    after (.poll 15001) (held 3 .right) (fun t => (t.dec.state, t.rcCmd)) = some (.reset, .stop) ∧
    after (.poll 42768) (held 3 .right) (·.dec.state) = some .contRise2 := by decide

/-- L2.5, every frame. -/
theorem witness_CommandFollowsTheLookupTable :
    [0, 1, 2, 3, 4, 5, 6, 7].map (fun f => after (.poll 10000) (held f .stop) (·.rcCmd)) =
      [some .ok, some .down, some .zero, some .right, some .left, some .down, some .up,
        some .right] := by decide

theorem witness_OnlyPollAndResetTouchTheDecoder :
    isPoll (.rcEdge false 0) = false ∧ Instr.rcEdge false 0 ≠ .reset ∧
      decode 0 = .error .reservedOp := by decide

/-- The thresholds just exceeded, and the longest phases. -/
theorem witness_CanonicalFrameIsReceived :
    base.dec.state = .reset ∧ base.lat.pend = false ∧
      (List.replicate 32 ((20, 30) : Tick × Tick)).length = 32 ∧
      base.cfg.startLow.val < (401 : Tick).toNat ∧ (32767 : Tick).toNat < 32768 ∧
      base.cfg.startIdle.val < (201 : Tick).toNat := by decide

/-- With no edge pending, and with one. -/
theorem witness_NoEdgeIsLostWhenPolled :
    base.lat.ovr = false ∧
      pollsSeparateEdges base.lat.pend [0x10000064, 0x70000000, 0x40000064, 0x10010258] = true ∧
      (edgeState .reset 0 0 false 9).lat.ovr = false ∧
      pollsSeparateEdges (edgeState .reset 0 0 false 9).lat.pend [0x40000064, 0x10010258] = true ∧
      pollsSeparateEdges false [0x10000064, 0x10010258] = false := by decide

/-- A state under the selector pin. -/
def selected (pin : Bool) : State :=
  { held 0b110 .up with
    cfg := { Config.ex1 with modeSource := .selectorPin }
    inp := { base.inp with modeSel := pin, evadeCmd := .turnLeft, manTrig := true } }

/-- L2.9: both mode sources, and both modes. -/
theorem witness_PollArbitratesTheMode :
    base.cfg.modeSource = .rcToggle ∧ (selected true).cfg.modeSource = .selectorPin ∧
      after (.poll 10000) (selected true) (fun t => (t.arb.autoEff, t.arb.motorCmd, t.arb.pull)) =
        some (true, .turnLeft, false) ∧
      after (.poll 10000) (selected false) (fun t => (t.arb.autoEff, t.arb.motorCmd, t.arb.pull)) =
        some (false, .forward, true) := by decide

theorem witness_SystemModeIsDerivedAtPoll :
    isPoll (.setInTarget 1) = false ∧ Instr.setInTarget 1 ≠ .reset ∧
      base.arb.sysMode = obstacleState.arb.sysMode := by decide

/-- No word between, and three: an RC edge, an illegal word and a port write. -/
theorem witness_HeldZeroTogglesOnce :
    (∀ w ∈ ([] : List Word), isPollWord w = false ∧ isResetWord w = false) ∧
      (∀ w ∈ [0x10000007#32, 0x70000000, 0x53000001],
        isPollWord w = false ∧ isResetWord w = false) ∧
      after (.poll 10000) (held 0b010 .stop) (·.rcCmd) = some .zero :=
  ⟨fun _ h => absurd h List.not_mem_nil, fun w hw =>
    ⟨forall_of_any (by decide : List.any _ isPollWord = false) w hw,
      forall_of_any (by decide : List.any _ isResetWord = false) w hw⟩, by decide⟩

theorem witness_AutoModeIgnoresTheRadio :
    (selected true).inp = { selected true with rcCmd := .stop, dec := base.dec }.inp ∧
      after (.poll 10000) (selected true) (·.arb.autoEff) = some true ∧
      after (.poll 0) { selected true with rcCmd := .stop, dec := base.dec } (·.arb.autoEff) =
        some true := by decide

theorem witness_MotorEventTogglesThePhase :
    0x3000FFFF#32 &&& 0xFFFF0000#32 = 0x30000000#32 ∧ base.mot.high = false := by decide

theorem witness_ServoEventTestsThenCounts :
    0x3100FFFF#32 &&& 0xFFFF0000#32 = 0x31000000#32 ∧
      (9 : BitVec 16).toNat < Config.ex1.totalWidth.ticks.toNat ∧
      after (.cmpMatchServo 0) { base with srv := { base.srv with subCnt := 8 } } (·.srv.subCnt) =
        some 9 := by decide

theorem witness_OutputsMoveOnlyAtCompareMatches :
    Instr.poll 0 ≠ .reset ∧ decode 0x33000000 = .error .badSelect := by decide

theorem witness_OutputsMoveOnlyAtCompareMatches_other :
    (∀ tick, Instr.poll 0 ≠ .cmpMatchMotor tick) ∧ (∀ tick, Instr.poll 0 ≠ .cmpMatchServo tick) :=
  ⟨fun _ h => (by cases h), fun _ h => (by cases h)⟩

/-- From cmp0 = 900 in the high phase, cmp1 = 100, and a fresh sensor polled at 3000. -/
theorem witness_OnTimeMatchesGiveTheProgrammedWidths :
    onTime 900 { base with mot := { cmp := 900, high := true, en := true } } (.cmpMatchMotor 0) = true ∧
      onTime 1000 { base with mot := { cmp := 1000, high := false, en := false } }
        (.cmpMatchMotor 0) = true ∧
      onTime 0 base (.cmpMatchServo 0) = true ∧
      onTime 100 { base with srv := { base.srv with cmp := 100 } } (.cmpMatchServo 0) = true ∧
      onTime 3000 base (.poll 3000) = true ∧
      after (.poll 3000) base (fun t => onTime 3010 t (.cmpMatchTrig 0)) = some true := by decide

/-- One servo event, a write to the width of the other channel and an illegal word. -/
theorem witness_ServoHighForFirstWOfEveryT :
    base.srv.subCnt = 0 ∧
      (∀ w ∈ [0x31000000#32, 0x56000004, 0x70000000], isResetWord w = false) ∧
      0 < ([0x31000000#32, 0x56000004, 0x70000000].filter isServoWord).length ∧
      (∀ w ∈ [0x31000000#32, 0x56000004, 0x70000000], isWidth0Word w = false) ∧
      (∀ w ∈ [0x31000000#32, 0x55000004, 0x70000000], isWidth1Word w = false) :=
  ⟨rfl, forall_of_any (by decide), by decide, forall_of_any (by decide), forall_of_any (by decide)⟩

theorem witness_EchoEdgeIsCapturedOrIgnored :
    0x20010C1C#32 &&& 0xFFFE0000#32 = 0x20000000#32 ∧
      0x21010BD6#32 &&& 0xFFFE0000#32 = 0x21000000#32 ∧
      0x2200FFFF#32 &&& 0xFFFE0000#32 = 0x22000000#32 := by decide

theorem witness_TriggerTimerEndsThePulse :
    0x3200FFFF#32 &&& 0xFFFF0000#32 = 0x32000000#32 ∧ (pulsing .right).rng.armed = true ∧
      ((pulsing .right).rng.rs.get .right).phase = .probeOut ∧
      ((pulsing .right).rng.rs.get .right).sent = true := by decide

theorem witness_PollFiresAFreshSensor :
    (base.rng.rs.get base.rng.cur).phase = .probeOut ∧ (base.rng.rs.get base.rng.cur).sent = false := by
  decide

/-- One state for each of the two waits (L2.8 rows 2 and 8). -/
theorem witness_PollWaitsForTriggerOrEcho :
    (((pulsing .left).rng.rs.get .left).phase = .probeOut ∧
      ((pulsing .left).rng.rs.get .left).sent = true) ∧
    (((ranged .left false false 3150 0).rng.rs.get .left).phase = .probeIn ∧
      ((ranged .left false false 3150 0).rng.rs.get .left).feedback = false ∧
      ((ranged .left false false 3150 0).rng.rs.get .left).finished = false) ∧
    after (.poll 3005) (pulsing .left) (·.rng) = some (pulsing .left).rng := by decide

/-- L2.8, the classification table: sensor, width at the threshold, across the wrap, aliased. -/
theorem witness_PollClassifiesTheEcho :
    ((ranged .left false true 5000 6000).rng.rs.get .left).phase = .probeIn ∧
    ((ranged .left false true 5000 6000).rng.rs.get .left).finished = false ∧
    ((ranged .left false true 5000 6000).rng.rs.get .left).feedback = true ∧
    ([(.left, 5000, 6000), (.left, 5000, 6001), (.center, 5000, 6001), (.right, 5000, 6001),
        (.left, 65000, 964), (.left, 5000, 38000)] : List (Sensor × Tick × Tick)).map
      (fun x => after (.poll 7000) (ranged x.1 false true x.2.1 x.2.2)
        (fun t => (t.rng.obstacle, t.rng.coll.get x.1, t.rng.obsDir))) =
    [some (false, false, .left), some (true, true, .right), some (true, true, .right),
      some (true, true, .left), some (true, true, .right), some (false, false, .left)] := by decide

/-- From Right to Left (L2.8, further vectors). -/
theorem witness_PollAdvancesToTheNextSensor :
    ((ranged .right true true 1 2).rng.rs.get .right).phase = .probeIn ∧
    ((ranged .right true true 1 2).rng.rs.get .right).finished = true ∧
    after (.poll 100) (ranged .right true true 1 2)
      (fun t => (t.rng.cur, t.rng.rs.left, t.rng.rs.right.finished)) =
      some (.left, SensorRec.atReset, true) := by decide

/-- With no rising edge seen: falls, and then a rise at the last place. With one seen: rises only. -/
theorem witness_MissingEchoStallsRanging :
    ((ranged .center false false 1 2).rng.rs.get .center).phase = .probeIn ∧
    ((ranged .center false false 1 2).rng.rs.get .center).finished = false ∧
    ((ranged .center false false 1 2).rng.rs.get .center).feedback = false ∧
    (∀ w ∈ [0x40000001#32, 0x21000005, 0x20000006, 0x21010005, 0x32000000, 0x70000000],
      isResetWord w = false) ∧
    noEchoPair .center ((ranged .center false false 1 2).rng.rs.get .center).riseSeen
      [0x40000001, 0x21000005, 0x20000006, 0x21010005, 0x32000000, 0x70000000] = true ∧
    noEchoPair .center true [0x21010005, 0x21010007] = true ∧
    noEchoPair .center true [0x21000005] = false ∧
    noEchoPair .center false [0x21010005, 0x40000001, 0x21000009] = false :=
  ⟨by decide, by decide, by decide, forall_of_any (by decide), by decide, by decide, by decide,
    by decide⟩

theorem witness_AnsweredProbeCompletes :
    (base.rng.rs.get base.rng.cur).phase = .probeOut ∧
    (base.rng.rs.get base.rng.cur).sent = false ∧
    (base.rng.rs.get base.rng.cur).finished = false ∧
    (nextOf (run 5 (base.facing
        ((probeStimuli .left 3000 3010 3150 4151 4400).map encode ++ [encode (.poll 4500)])))).map
      (fun t => (t.rng.obstacle, t.rng.obsDir)) = some (true, .right) := by decide

/-- The values at the bounds of the ports. -/
theorem witness_SetInWritesOnePort :
    (0 : BitVec 16).toNat ≤ 1 ∧ (1 : BitVec 16).toNat ≤ 1 ∧ 1 < (2 : BitVec 16).toNat ∧
      (4 : BitVec 16).toNat ≤ 4 ∧ 4 < (5 : BitVec 16).toNat := by decide

theorem witness_OnlySetInAndResetWriteInputs :
    isSetIn (.poll 0) = false ∧ Instr.poll 0 ≠ .reset ∧ isSetIn (.setInServoW1 9) = true ∧
      (Instr.setInServoW1 9).wellFormed = true := by decide

/-- The next word is no RESET: legal, illegal; and a RESET. -/
theorem witness_IllIsStickyAndOnlyForIllegalWords :
    decode 0x40000000 = .ok (.poll 0) ∧ decode 0x40010000 = .error .badLevel ∧
      (present base 0x60000000).stream = 0x60000000 :: [] ∧ decode 0x60000000 = .ok .reset := by
  decide

theorem witness_IllegalWordsSetIllAndTheirStreamsAreRefused :
    decode 0x70000000 = .error .reservedOp ∧ Instr.poll 0 ≠ .reset ∧
      { base with ill := true }.ill = true ∧
      (∃ w ∈ [0x40000000#32, 0x70000000], ∃ e, decode w = .error e) ∧
      ∀ w ∈ [0x40000000#32], ∃ i, decode w = .ok i :=
  ⟨by decide, by decide, rfl, ⟨0x70000000, by decide, .reservedOp, by decide⟩,
    fun w hw => ⟨.poll 0, by rw [List.mem_singleton.mp hw]; decide⟩⟩

theorem witness_LegalStreamsKeepIllClear :
    base.ill = false ∧ allLegal [0x40000000, 0x60000000, 0x50000001] = true := by decide

/-! ### States that meet the invariant -/

/-- The invariant where the decoder and the arbiter are as after reset: it is left to show of the
ranging registers. -/
theorem inv_of_ranging (r : Ranging) (h : RangingInv Config.ex1 r) : Inv { base with rng := r } where
  decoder := ⟨rfl, rfl, fun _ _ => BitVec.getLsbD_zero, fun _ _ => BitVec.getLsbD_zero⟩
  command := rfl
  arbiter :=
    ⟨rfl, rfl, fun _ => rfl, (by decide : base.arb.autoEff = true ↔
      base.arb.sysMode = .searching ∨ base.arb.sysMode = .engaged), fun _ => rfl⟩
  motor := (by decide : base.mot.en = true → base.mot.high = true)
  servo := (by decide : base.srv.subCnt.toNat < base.cfg.totalWidth.ticks.toNat)
  ranging := h

theorem witness_EveryStepKeepsTheInvariant : Inv base :=
  inv_of_ranging base.rng
    { records := fun s => by cases s <;> exact ⟨by decide, by decide, by decide, by decide⟩
      one_probe := fun s _ => by cases s <;> exact .inr ⟨rfl, rfl⟩
      armed_iff := by decide
      pulse := by decide }

theorem witness_ObstaclePulseLastsOnePoll :
    Inv obstacleState ∧ obstacleState.rng.obstacle = true ∧ isPoll (.rcEdge true 5) = false ∧
      Instr.rcEdge true 5 ≠ .reset :=
  ⟨inv_of_ranging obstacleState.rng
    { records := fun s => by cases s <;> exact ⟨by decide, by decide, by decide, by decide⟩
      one_probe := fun s h => by
        cases s
        · exact absurd rfl h
        · exact .inr ⟨rfl, rfl⟩
        · exact .inr ⟨rfl, rfl⟩
      armed_iff := by decide
      pulse := by decide },
    by decide, by decide, by decide⟩

/-- At reset a POLL starts the probe of Left; in `obstacleState` a POLL goes on to Center, and makes it
fresh where it was not. -/
theorem witness_NoRetriggerBeforeClassification :
    after (.poll 0) base (·.rng.rs.left.sent) = some true ∧
      after (.poll 0) obstacleState (·.rng.cur) = some .center ∧
      after (.poll 0)
        { obstacleState with rng := { obstacleState.rng with
            rs := obstacleState.rng.rs.set .center obstacleState.rng.rs.left } }
        (·.rng.rs.center.sent) = some false := by decide

/-- A complete frame, held, with the command it stands for. -/
theorem witness_ReadyOnlyWithACompleteFrame :
    Inv { held 3 .right with arb := { base.arb with prevCmd := .right, motorCmd := .turnRight } } ∧
      (held 3 .right).dec.ready = true ∧ (held 3 .right).rcCmd ≠ .stop :=
  ⟨{  decoder :=
        ⟨rfl, rfl,
          fun k hk => by
            have hk' : 3 ≤ k := hk
            rcases Nat.lt_or_ge k 8 with h | h
            · interval_cases k <;> rfl
            · exact BitVec.getLsbD_of_ge _ _ h,
          fun k hk => by
            have hk' : 16 ≤ k := by
              have h32 : 32 ≤ 16 + k := hk
              omega
            exact BitVec.getLsbD_of_ge _ _ (by omega)⟩
      command := rfl
      arbiter := ⟨rfl, rfl, fun _ => rfl, by decide, fun _ => rfl⟩
      motor := by decide
      servo := by decide
      ranging :=
        { records := fun s => by cases s <;> exact ⟨by decide, by decide, by decide, by decide⟩
          one_probe := fun s _ => by cases s <;> exact .inr ⟨rfl, rfl⟩
          armed_iff := by decide
          pulse := by decide } },
    by decide, by decide⟩

end Sys2Proof.Tests
end

section
/-!
PROOFS for `spec/00_scope.md`: tick arithmetic, the signed tick difference, and what every stimulus and
every step keeps of the parameters and the stream.
-/

namespace Sys2Proof.Machine

/-! ## Tick arithmetic (R10, R11) -/

theorem toNat_tickAdd (a b : Tick) : (tickAdd a b).toNat = (a.toNat + b.toNat) % 65536 :=
  BitVec.toNat_add a b

theorem toNat_tickSub (a b : Tick) :
    ((tickSub a b).toNat : Int) = ((a.toNat : Int) - (b.toNat : Int)) % 65536 := by
  have hb := b.isLt
  have hsub : (tickSub a b).toNat = (2 ^ 16 - b.toNat + a.toNat) % 2 ^ 16 := BitVec.toNat_sub a b
  omega

/-- The two branches of the definition, with the modular difference written `new - old`. -/
theorem sdiff_eq_ite (new old : Tick) :
    sdiff new old = if (new - old).toNat < 32768 then ((new - old).toNat : Int)
      else ((new - old).toNat : Int) - 65536 := rfl

theorem sdiff_mem_range (new old : Tick) : -32768 ≤ sdiff new old ∧ sdiff new old ≤ 32767 := by
  rw [sdiff_eq_toInt]
  exact ⟨BitVec.le_toInt (new - old), Int.le_sub_one_of_lt (BitVec.toInt_lt (x := new - old))⟩

/-- Reading the modular difference as signed takes off 65536 or nothing, so the residue stays. -/
theorem sdiff_sub_emod (new old : Tick) :
    (sdiff new old - ((new.toNat : Int) - (old.toNat : Int))) % 65536 = 0 := by
  have hu : ((new - old).toNat : Int) = ((new.toNat : Int) - (old.toNat : Int)) % 65536 :=
    toNat_tickSub new old
  rw [sdiff_eq_ite]
  split <;> omega

/-- The difference to a tick `d` later is `d` read as signed, wherever the counter wraps. -/
theorem sdiff_add_left (a d : Tick) : sdiff (a + d) a = d.toInt := by
  rw [sdiff_eq_toInt, add_sub_cancel_left]

/-! ## What every stimulus and every step keeps (R7, R206) -/

/-- A POLL writes neither the parameters nor the stream. -/
theorem execPoll_keeps_cfg_stream (now : Tick) (s : State) :
    ∃ t, execPoll now s = .next t ∧ t.cfg = s.cfg ∧ t.stream = s.stream := by
  obtain ⟨t, ht, hcfg, hstream, -⟩ := execPoll_next now s
  exact ⟨t, ht, hcfg, hstream⟩

/-- No stimulus writes the parameters or the stream. -/
theorem exec_keeps_cfg_stream (i : Instr) (s : State) :
    ∃ t, exec i s = .next t ∧ t.cfg = s.cfg ∧ t.stream = s.stream := by
  rcases exec_cases i s with ⟨_, _, -, h⟩ | ⟨_, _, _, -, h⟩ | ⟨_, -, h⟩ | ⟨_, -, h⟩ | ⟨_, -, h⟩ |
    ⟨now, -, h⟩ | ⟨-, ⟨_, h⟩ | h⟩ | ⟨-, h⟩
  case inr.inr.inr.inr.inr.inl => rw [h]; exact execPoll_keeps_cfg_stream now s
  all_goals exact ⟨_, h, rfl, rfl⟩

/-- Settles O13: a step waits at an empty stream, runs a stimulus on the stream's tail, or raises `ill`
there, and none of these writes the parameters or the rest of the stream. -/
theorem parametersAreNeverWritten : Obligations.ParametersAreNeverWritten := by
  intro s
  rcases step_cases s with ⟨hs, h⟩ | ⟨w, ws, i, hs, -, h⟩ | ⟨w, ws, e, hs, -, h⟩ <;> rw [h, hs]
  · exact ⟨s, rfl, rfl, hs⟩
  · exact exec_keeps_cfg_stream i (s.setStream ws)
  · exact ⟨_, rfl, rfl, rfl⟩

/-- Settles O16, from the lemmas on the range, the residue and a later tick. -/
theorem sdiffIsTheSignedModularDifference : Obligations.SdiffIsTheSignedModularDifference := by
  refine ⟨fun new old => ?_, fun a => sdiff_add_left a 1⟩
  obtain ⟨hlow, hhigh⟩ := sdiff_mem_range new old
  exact ⟨sdiff_eq_ite new old, hlow, hhigh, sdiff_sub_emod new old⟩

/-- Settles O15. -/
theorem tickArithmeticIsModular : Obligations.TickArithmeticIsModular :=
  fun a b => ⟨toNat_tickAdd a b, toNat_tickSub a b⟩

end Sys2Proof.Machine
end

section
/-!
PROOFS for `spec/10_state.md`: the invariant at reset and over every step, what it says of the radio
command, who writes the overrun mark and the input registers, the reset table and the output ports.
-/

namespace Sys2Proof.Machine

/-! ## The decoder registers (R16 to R20) -/

/-- The continuation states are the ones that hold a frame. -/
theorem holdsFrame_iff (d : DecState) :
    holdsFrame d = true ↔ d = .contFall1 ∨ d = .contRise1 ∨ d = .contFall2 ∨ d = .contRise2 := by
  cases d <;> simp [holdsFrame]

/-- A state that holds a frame admits no bit count but 32. -/
theorem bitCountOk_iff_of_holdsFrame {d : DecState} (h : holdsFrame d = true) (n : Nat) :
    bitCountOk d n ↔ n = 32 := by
  obtain rfl | rfl | rfl | rfl := (holdsFrame_iff d).mp h <;> rfl

/-- A cleared decoder meets the invariant in every state that expects no bit and no frame. -/
theorem decoderInv_of_cleared (p : Config.Params) {d : Decoder} (hready : d.ready = false)
    (hstate : holdsFrame d.state = false) (hidx : d.bitIdx = 0) (hframe : d.frame = 0)
    (hbits : bitCountOk d.state 0) : DecoderInv p d where
  ready_iff := hready.trans hstate.symm
  bits := by rw [hidx]; exact hbits
  frame_above k _ := by rw [hframe]; exact BitVec.getLsbD_zero
  frame_later k _ := by rw [hframe]; exact BitVec.getLsbD_zero

theorem enterReset_inv (p : Config.Params) (d : Decoder) : DecoderInv p (enterReset d) :=
  decoderInv_of_cleared p rfl rfl rfl rfl rfl

theorem newSession_inv (p : Config.Params) (d : Decoder) : DecoderInv p (newSession d) :=
  decoderInv_of_cleared p rfl rfl rfl rfl (show 0 < 32 by decide)

/-- A change of `dec_state` alone keeps the invariant where the new state admits the bit count and
holds a frame just as the old one does. -/
theorem DecoderInv.setState {p : Config.Params} {d : Decoder} (h : DecoderInv p d) {c : DecState}
    (hframe : holdsFrame c = holdsFrame d.state) (hbits : bitCountOk c d.bitIdx.toNat) :
    DecoderInv p { d with state := c } :=
  { h with ready_iff := h.ready_iff.trans hframe.symm, bits := hbits }

theorem DecoderInv.setTEdge {p : Config.Params} {d : Decoder} (h : DecoderInv p d) (ts : Tick) :
    DecoderInv p { d with tEdge := ts } :=
  { h with }

theorem isPayload_iff (p : Config.Params) (i : Nat) :
    isPayload p i = true ↔ 16 ≤ i ∧ i < 16 + payloadCount p.payloadBits := by
  simp [isPayload]

/-- The frame after a captured bit (R48). -/
def capturedFrame (p : Config.Params) (w : Int) (d : Decoder) : BitVec 8 :=
  if isPayload p d.bitIdx.toNat then
    setFrameBit d.frame (d.bitIdx.toNat - 16) (dataBit p w)
  else d.frame

/-- The 32nd bit completes the frame; an earlier one leaves `ready` as it was (R48). -/
theorem bitCapture_cases (p : Config.Params) (w : Int) (d : Decoder) :
    (d.bitIdx.toNat + 1 = 32 ∧ bitCapture p w d =
      { d with state := .contRise2, bitIdx := d.bitIdx + 1, frame := capturedFrame p w d,
               ready := true }) ∨
    (d.bitIdx.toNat + 1 ≠ 32 ∧ bitCapture p w d =
      { d with state := .recvRise, bitIdx := d.bitIdx + 1, frame := capturedFrame p w d }) := by
  by_cases hlast : d.bitIdx.toNat + 1 = 32
  · exact .inl ⟨hlast, if_pos hlast⟩
  · exact .inr ⟨hlast, if_neg hlast⟩

/-- A captured bit can change only the frame bit at its payload position. -/
theorem capturedFrame_getLsbD_of_ne (p : Config.Params) (w : Int) (d : Decoder) {k : Nat}
    (hk : isPayload p d.bitIdx.toNat = true → k ≠ d.bitIdx.toNat - 16) :
    (capturedFrame p w d).getLsbD k = d.frame.getLsbD k := by
  unfold capturedFrame
  split
  case isTrue hpay =>
    obtain ⟨-, hlt⟩ := (isPayload_iff p _).mp hpay
    have hcount := payloadCount_le p.payloadBits
    rw [getLsbD_setFrameBit _ _ _ _ (by omega), if_neg (hk hpay)]
  case isFalse => rfl

/-- A captured bit keeps the invariant: the written position is below `PayloadBits` and is the
one the counter leaves behind. -/
theorem bitCapture_inv {p : Config.Params} {d : Decoder} (h : DecoderInv p d) (w : Int)
    (hstate : d.state = .recvFall) : DecoderInv p (bitCapture p w d) := by
  have hbits : d.bitIdx.toNat < 32 := by simpa [hstate, bitCountOk] using h.bits
  have hready : d.ready = false := by simpa [hstate, holdsFrame] using h.ready_iff
  have hidx : (d.bitIdx + 1).toNat = d.bitIdx.toNat + 1 := by bv_omega
  have habove : ∀ k, payloadCount p.payloadBits ≤ k → (capturedFrame p w d).getLsbD k = false := by
    intro k hk
    rw [capturedFrame_getLsbD_of_ne p w d fun hpay => by
      have := (isPayload_iff p _).mp hpay; omega]
    exact h.frame_above k hk
  have hlater : ∀ k, (d.bitIdx + 1).toNat ≤ 16 + k → (capturedFrame p w d).getLsbD k = false := by
    intro k hk
    rw [hidx] at hk
    rw [capturedFrame_getLsbD_of_ne p w d fun hpay => by
      have := (isPayload_iff p _).mp hpay; omega]
    exact h.frame_later k (by omega)
  obtain ⟨hlast, he⟩ | ⟨hmore, he⟩ := bitCapture_cases p w d <;> rw [he]
  · exact ⟨rfl, hidx.trans hlast, habove, hlater⟩
  · have hcount : 1 ≤ (d.bitIdx + 1).toNat ∧ (d.bitIdx + 1).toNat < 32 := by omega
    exact ⟨hready, hcount, habove, hlater⟩

/-- Every state rule keeps the invariant (R44 to R53). -/
theorem decRule_inv {p : Config.Params} {d : Decoder} (h : DecoderInv p d) (w : Int) (lvl : Bool) :
    DecoderInv p (decRule p w lvl d) := by
  have hbits := h.bits
  rcases decRule_cases p w lvl d with he | ⟨he, -⟩ | ⟨he, hs⟩ | ⟨he, hs⟩ | ⟨he, -⟩ | ⟨c, he, hc⟩ |
    ⟨c, he, hc, hs⟩ <;> rw [he]
  · exact enterReset_inv p d
  · exact newSession_inv p d
  · exact bitCapture_inv h w hs
  · rw [hs] at hbits
    exact h.setState (by rw [hs]; rfl) hbits.2
  · exact h
  · obtain ⟨hs, rfl⟩ | ⟨hs, rfl⟩ := hc <;> rw [hs] at hbits <;>
      exact h.setState (by rw [hs]; rfl) hbits
  · have hold := (holdsFrame_iff d.state).mpr hs
    have hnew := (holdsFrame_iff c).mpr hc
    exact h.setState (hnew.trans hold.symm)
      ((bitCountOk_iff_of_holdsFrame hnew _).mpr ((bitCountOk_iff_of_holdsFrame hold _).mp hbits))

theorem steppedDec_inv {s : State} (h : DecoderInv s.cfg s.dec) :
    DecoderInv s.cfg (steppedDec s) := by
  unfold steppedDec
  split
  · exact (decRule_inv h _ _).setTEdge _
  · exact h

theorem voidCheck_inv {p : Config.Params} {d : Decoder} (h : DecoderInv p d) (now : Tick)
    (l : Latch) : DecoderInv p (voidCheck p now l d) := by
  unfold voidCheck
  split
  · exact enterReset_inv p d
  · exact h

/-! ## The arbiter registers (R24 to R27) -/

theorem systemMode_auto_iff (eff target : Bool) :
    eff = true ↔ systemMode eff target = .searching ∨ systemMode eff target = .engaged := by
  cases eff <;> cases target <;> simp [systemMode]

/-- The arbiter's registers meet the invariant after every POLL, whatever they held before. -/
theorem arbiterStep_inv (p : Config.Params) (x : Inputs) (cmd : Command) (a : Arbiter) :
    ArbiterInv p cmd (arbiterStep p x cmd a) where
  prev := rfl
  search := rfl
  toggle_selects hsrc := by simp only [arbiterStep, hsrc, effectiveMode]
  mode_auto := systemMode_auto_iff _ _
  manual_motor hman := if_neg (ne_true_of_eq_false hman)

/-! ## The scheduler registers (R30, R31) -/

/-- The motor enable of an event is given in its high phase only. -/
theorem motorEvent_en_high (p : Config.Params) (cmd : MotorCmd) (m : MotorPwm)
    (h : (motorEvent p cmd m).en = true) : (motorEvent p cmd m).high = true :=
  (Bool.and_eq_true_iff.mp h).1

theorem servoEvent_subCnt_lt (p : Config.Params) (x : Inputs) (v : ServoPwm)
    (h : v.subCnt.toNat < p.totalWidth.ticks.toNat) :
    (servoEvent p x v).subCnt.toNat < p.totalWidth.ticks.toNat := by
  have hnext : (servoEvent p x v).subCnt.toNat = _ := nextSubCnt_toNat p v.subCnt h
  rw [hnext]
  split <;> omega

/-! ## The sensor records (R33) -/

/-- A record at the start of a probe is in order and quiet. -/
theorem freshProbe_inv (x : SensorRec) : SensorInv (freshProbe x) := by
  constructor <;> simp [freshProbe]

theorem freshProbe_quiet (x : SensorRec) : (freshProbe x).quiet := .inr ⟨rfl, rfl⟩

/-- A record in ProbeOut has been neither answered nor classified. -/
theorem SensorInv.not_finished_of_probeOut {x : SensorRec} (h : SensorInv x)
    (hout : x.phase = .probeOut) : x.finished = false := by
  by_contra hfin
  have hin := h.rise_listen (h.pair_rise (h.finished_pair (Bool.eq_true_of_not_eq_false hfin)))
  rw [hout] at hin
  cases hin

/-- The end of the trigger pulse keeps the order of the flags: the pulse was sent and nothing else
had happened. -/
theorem beginListen_inv {x : SensorRec} (h : SensorInv x) (hout : x.phase = .probeOut)
    (hsent : x.sent = true) : SensorInv (beginListen x) := by
  have hfin := h.not_finished_of_probeOut hout
  constructor <;> simp [beginListen, hsent, hfin]

/-- An edge changes none of the phase, `probe_sent` and `probe_finished` (R73). -/
theorem captureEcho_frame (lvl : Bool) (ts : Tick) (x : SensorRec) :
    (captureEcho lvl ts x).phase = x.phase ∧ (captureEcho lvl ts x).sent = x.sent ∧
      (captureEcho lvl ts x).finished = x.finished := by
  unfold captureEcho
  split
  · exact ⟨rfl, rfl, rfl⟩
  · split <;> exact ⟨rfl, rfl, rfl⟩

theorem captureEcho_inv {x : SensorRec} (h : SensorInv x) (lvl : Bool) (ts : Tick)
    (hin : x.phase = .probeIn) : SensorInv (captureEcho lvl ts x) := by
  unfold captureEcho
  split
  · exact { h with rise_listen := fun _ => hin, pair_rise := fun _ => rfl }
  · split
    case isTrue hrise =>
      exact { h with pair_rise := fun _ => hrise, finished_pair := fun _ => rfl }
    case isFalse => exact h

/-! ## The ranging registers (R32 to R35) -/

/-- An update that keeps `cur` and the other sensors' records owes the invariant only the current
record, the timer and the hand-off. -/
theorem RangingInv.updateCur {p : Config.Params} {r q : Ranging} (h : RangingInv p r)
    (hcur : q.cur = r.cur) (hother : ∀ x, x ≠ r.cur → q.rs.get x = r.rs.get x)
    (hrec : SensorInv (q.rs.get q.cur))
    (harmed : q.armed = true ↔ (q.rs.get q.cur).phase = .probeOut ∧ (q.rs.get q.cur).sent = true)
    (hpulse : q.obstacle = true → q.obsSensor = q.cur ∧ (q.rs.get q.cur).finished = true ∧
      q.coll.get q.cur = true ∧ q.obsDir = turnDir p q.cur) : RangingInv p q where
  records x := by
    by_cases hx : x = q.cur
    · rw [hx]; exact hrec
    · rw [hother x (hcur ▸ hx)]; exact h.records x
  one_probe x hx := by
    rw [hcur] at hx
    rw [hother x hx]
    exact h.one_probe x hx
  armed_iff := harmed
  pulse := hpulse

/-- Clearing the hand-off pulse (R71). -/
theorem RangingInv.clearObstacle {p : Config.Params} {r : Ranging} (h : RangingInv p r) :
    RangingInv p { r with obstacle := false } :=
  { h with pulse := fun hobs => nomatch hobs }

/-- Firing sends the pulse and arms the timer together (R75). -/
theorem fire_inv {p : Config.Params} {r : Ranging} (h : RangingInv p r) (now : Tick)
    (hobs : r.obstacle = false) (hout : (r.rs.get r.cur).phase = .probeOut) :
    RangingInv p (fire p now r.cur r) := by
  have hrec : SensorInv { r.rs.get r.cur with sent := true } :=
    { h.records r.cur with listen_sent := fun _ => rfl }
  refine h.updateCur rfl (fun x hx => PerSensor.get_set_ne _ _ hx) ?_ ?_ ?_
  · simpa [fire] using hrec
  · simp [fire, hout]
  · simp [fire, hobs]

/-- Classification finishes the probe and writes the collision flag, with the hand-off on a hit
(R77). -/
theorem classify_cases (p : Config.Params) (s : Sensor) (r : Ranging) :
    classify p s r =
      { r with coll := r.coll.set s true, rs := r.rs.set s { r.rs.get s with finished := true },
               obstacle := true, obsSensor := s, obsDir := turnDir p s } ∨
    classify p s r =
      { r with coll := r.coll.set s false,
               rs := r.rs.set s { r.rs.get s with finished := true } } := by
  cases hhit : echoHit p (r.rs.get s) <;> simp [classify, hhit]

/-- Classification sets the hand-off only together with the collision flag it announces (R77,
R79). -/
theorem classify_inv {p : Config.Params} {r : Ranging} (h : RangingInv p r)
    (hobs : r.obstacle = false) (hpair : (r.rs.get r.cur).feedback = true) :
    RangingInv p (classify p r.cur r) := by
  have hrec : SensorInv { r.rs.get r.cur with finished := true } :=
    { h.records r.cur with finished_pair := fun _ => hpair }
  obtain he | he := classify_cases p r.cur r <;> rw [he] <;>
    refine h.updateCur rfl (fun x hx => PerSensor.get_set_ne _ _ hx) ?_ ?_ ?_
  case inl.refine_3 => simp
  case inr.refine_3 => simp [hobs]
  case inl.refine_1 | inr.refine_1 => simpa using hrec
  case inl.refine_2 | inr.refine_2 => simpa using h.armed_iff

/-- Advancing leaves a finished probe behind and starts the next sensor's one afresh (R78). -/
theorem advance_inv {p : Config.Params} {r : Ranging} (h : RangingInv p r)
    (hobs : r.obstacle = false) (hin : (r.rs.get r.cur).phase = .probeIn)
    (hfin : (r.rs.get r.cur).finished = true) : RangingInv p (advance r.cur r) where
  records x := by
    by_cases hx : x = nextSensor r.cur
    · subst hx
      simpa [advance] using freshProbe_inv _
    · simpa [advance, hx] using h.records x
  one_probe x hx := by
    change x ≠ nextSensor r.cur at hx
    have hkept : (advance r.cur r).rs.get x = r.rs.get x := PerSensor.get_set_ne _ _ hx
    rw [hkept]
    by_cases hold : x = r.cur
    · exact .inl (hold ▸ hfin)
    · exact h.one_probe x hold
  armed_iff := by
    have hidle : r.armed = false := by simpa [hin] using h.armed_iff
    simp [advance, freshProbe, hidle]
  pulse hpulse := absurd (hobs.symm.trans hpulse) Bool.false_ne_true

/-- A POLL's ranging step keeps the invariant: one of fire, wait, advance and classify (R71,
R74). -/
theorem rangingStep_inv {p : Config.Params} {r : Ranging} (h : RangingInv p r) (now : Tick) :
    RangingInv p (rangingStep p now r) := by
  have hclear := h.clearObstacle
  unfold rangingStep
  rcases rangingAction_cases p now { r with obstacle := false } with ⟨hout, -, he⟩ | ⟨-, -, he⟩ |
    ⟨hin, hfin, he⟩ | ⟨-, -, hpair, he⟩ | ⟨-, -, -, he⟩ <;> rw [he]
  · exact fire_inv hclear now rfl hout
  · exact hclear
  · exact advance_inv hclear rfl hin hfin
  · exact classify_inv hclear rfl hpair
  · exact hclear

/-- An echo edge that is taken moves no flag which the timer or the hand-off depends on (R73). -/
theorem echoEdge_inv {p : Config.Params} {r : Ranging} (h : RangingInv p r) (x : Sensor)
    (lvl : Bool) (ts : Tick) : RangingInv p (echoEdge x lvl ts r) := by
  unfold echoEdge
  split
  case isTrue htaken =>
    obtain ⟨rfl, hin, -⟩ := (echoTaken_iff r x).mp htaken
    obtain ⟨hphase, hsent, hfin⟩ := captureEcho_frame lvl ts (r.rs.get r.cur)
    refine h.updateCur rfl (fun y hy => PerSensor.get_set_ne _ _ hy) ?_ ?_ ?_
    · simpa using captureEcho_inv (h.records r.cur) lvl ts hin
    · simpa [hphase, hsent] using h.armed_iff
    · simpa [hfin] using h.pulse
  case isFalse => exact h

/-- The end of the trigger pulse disarms the timer; nothing can be handed off yet (R76). -/
theorem trigEvent_inv {p : Config.Params} {r : Ranging} (h : RangingInv p r) :
    RangingInv p (trigEvent r) := by
  unfold trigEvent
  split
  case isTrue htaken =>
    obtain ⟨-, hout, hsent⟩ := (trigTaken_iff r).mp htaken
    have hfin := (h.records r.cur).not_finished_of_probeOut hout
    refine h.updateCur rfl (fun y hy => PerSensor.get_set_ne _ _ hy) ?_ ?_ fun hpulse => ?_
    · simpa using beginListen_inv (h.records r.cur) hout hsent
    · simp [beginListen]
    · obtain ⟨-, hdone, -⟩ := h.pulse hpulse
      exact absurd (hfin.symm.trans hdone) Bool.false_ne_true
  case isFalse => exact h

/-! ## The invariant at reset and over every step -/

theorem initial_rangingInv (p : Config.Params) (ws : List Word) :
    RangingInv p (State.initial p ws).rng := by
  have hrec : ∀ x, (State.initial p ws).rng.rs.get x = freshProbe SensorRec.atReset := by
    intro x; cases x <;> rfl
  refine ⟨fun x => ?_, fun x _ => ?_, ?_, fun hpulse => nomatch hpulse⟩
  · rw [hrec]; exact freshProbe_inv _
  · rw [hrec]; exact freshProbe_quiet _
  · rw [hrec]; simp [State.initial, freshProbe]

/-- The reset table of R37 meets the invariant in every build. -/
theorem initial_inv (p : Config.Params) (ws : List Word) : Inv (State.initial p ws) where
  decoder := decoderInv_of_cleared p rfl rfl rfl rfl rfl
  command := rfl
  arbiter := by constructor <;> simp [State.initial, manualMap]
  motor hen := nomatch hen
  servo := duration_pos p.totalWidth
  ranging := initial_rangingInv p ws

/-- The invariant reads neither the stream, nor the latch, nor the input registers, nor `ill`. -/
theorem Inv.setStream {s : State} (h : Inv s) (ws : List Word) : Inv (s.setStream ws) := { h with }

theorem Inv.setLat {s : State} (h : Inv s) (l : Latch) : Inv (s.setLat l) := { h with }

theorem Inv.setInp {s : State} (h : Inv s) (x : Inputs) : Inv (s.setInp x) := { h with }

theorem Inv.raiseIllegal {s : State} (h : Inv s) : Inv (raiseIllegal s) := { h with }

theorem Inv.setRng {s : State} (h : Inv s) {r : Ranging} (hr : RangingInv s.cfg r) :
    Inv (s.setRng r) := { h with ranging := hr }

/-- A POLL keeps the invariant, sub-step by sub-step (R103). -/
theorem execPoll_inv {s : State} (h : Inv s) (now : Tick) :
    ∃ t, execPoll now s = .next t ∧ Inv t := by
  obtain ⟨t, ht, hcfg, -, -, hmot, hsrv, -, -, hdec, hcmd, harb, hrng⟩ := execPoll_next now s
  refine ⟨t, ht, ?_, hcmd, ?_, ?_, ?_, ?_⟩
  · rw [hcfg, hdec]; exact voidCheck_inv (steppedDec_inv h.decoder) now s.lat
  · rw [hcfg, harb]; exact arbiterStep_inv s.cfg s.inp t.rcCmd s.arb
  · rw [hmot]; exact h.motor
  · rw [hcfg, hsrv]; exact h.servo
  · rw [hcfg, hrng]; exact rangingStep_inv h.ranging now

/-- Every stimulus keeps the invariant. -/
theorem exec_inv {s : State} (h : Inv s) (i : Instr) : ∃ t, exec i s = .next t ∧ Inv t := by
  rcases exec_cases i s with ⟨_, _, -, he⟩ | ⟨x, lvl, ts, -, he⟩ | ⟨_, -, he⟩ | ⟨_, -, he⟩ |
    ⟨_, -, he⟩ | ⟨now, -, he⟩ | ⟨-, ⟨_, he⟩ | he⟩ | ⟨-, he⟩
  · exact ⟨_, he, h.setLat _⟩
  · exact ⟨_, he, h.setRng (echoEdge_inv h.ranging x lvl ts)⟩
  · exact ⟨_, he, { h with motor := motorEvent_en_high _ _ _ }⟩
  · exact ⟨_, he, { h with servo := servoEvent_subCnt_lt _ _ _ h.servo }⟩
  · exact ⟨_, he, h.setRng (trigEvent_inv h.ranging)⟩
  · rw [he]; exact execPoll_inv h now
  · exact ⟨_, he, h.setInp _⟩
  · exact ⟨_, he, h.raiseIllegal⟩
  · exact ⟨_, he, initial_inv _ _⟩

/-- Settles O59: a step waits, runs a stimulus, or raises `ill`, and each keeps the invariant. -/
theorem everyStepKeepsTheInvariant : Obligations.EveryStepKeepsTheInvariant := by
  intro s h
  rcases step_cases s with ⟨-, he⟩ | ⟨_, ws, i, -, -, he⟩ | ⟨_, ws, _, -, -, he⟩ <;> rw [he]
  · exact ⟨s, rfl, h⟩
  · exact exec_inv (h.setStream ws) i
  · exact ⟨_, rfl, (h.setStream ws).raiseIllegal⟩

/-- Settles O58. -/
theorem invariantHoldsAtReset : Obligations.InvariantHoldsAtReset :=
  ⟨initial_inv, initial_inv _ _, fun s => ⟨resetBlock s, rfl, initial_inv _ _⟩⟩

/-! ## The radio command and the frame (R61) -/

/-- Settles O60: `ready` is `holdsFrame` of the decoder state, which fixes the bit count, and the
lookup of a frame that is not ready is Stop. -/
theorem readyOnlyWithACompleteFrame : Obligations.ReadyOnlyWithACompleteFrame := by
  intro s h
  have hready := h.decoder.ready_iff
  refine ⟨by rw [hready]; exact holdsFrame_iff _, fun hr => ?_, fun hcmd => ?_⟩
  · have hcount := (bitCountOk_iff_of_holdsFrame (hready.symm.trans hr) _).mp h.decoder.bits
    exact BitVec.eq_of_toNat_eq hcount
  · by_contra hnot
    rw [h.command, Bool.eq_false_of_not_eq_true hnot, lookup_not_ready] at hcmd
    exact hcmd rfl

/-! ## Who writes the overrun mark (R22) -/

/-- An RC edge marks an overrun exactly where one is marked already or an edge is pending. -/
theorem overrun_iff (l : Latch) : overrun l = true ↔ l.ovr = true ∨ l.pend = true := by
  simp [overrun, or_comm]

/-- A stimulus that is neither an RC edge nor RESET leaves the overrun mark. -/
theorem exec_keeps_ovr {i : Instr} (s : State) (hedge : ∀ lvl ts, i ≠ .rcEdge lvl ts)
    (hreset : i ≠ .reset) : ∃ t, exec i s = .next t ∧ t.lat.ovr = s.lat.ovr := by
  rcases exec_cases i s with ⟨lvl, ts, hi, -⟩ | ⟨_, _, _, -, he⟩ | ⟨_, -, he⟩ | ⟨_, -, he⟩ |
    ⟨_, -, he⟩ | ⟨now, -, he⟩ | ⟨-, ⟨_, he⟩ | he⟩ | ⟨hi, -⟩
  case inl => exact absurd hi (hedge lvl ts)
  case inr.inr.inr.inr.inr.inl =>
    obtain ⟨t, ht, -, -, -, -, -, -, hlat, -⟩ := execPoll_next now s
    exact ⟨t, he.trans ht, by rw [hlat]⟩
  case inr.inr.inr.inr.inr.inr.inr => exact absurd hi hreset
  all_goals exact ⟨_, he, rfl⟩

/-- Settles O20: an RC edge writes the overrun mark, and every other stimulus but RESET keeps it. -/
theorem rcOvrRecordsALostEdge : Obligations.RcOvrRecordsALostEdge := by
  refine ⟨fun i s hreset => ?_, fun s => ⟨resetBlock s, rfl, rfl⟩⟩
  by_cases hedge : ∃ lvl ts, i = .rcEdge lvl ts
  · obtain ⟨lvl, ts, rfl⟩ := hedge
    refine ⟨_, rfl, (overrun_iff s.lat).trans ?_⟩
    simp
  · obtain ⟨t, ht, hovr⟩ := exec_keeps_ovr s (fun lvl ts hi => hedge ⟨lvl, ts, hi⟩) hreset
    refine ⟨t, ht, ?_⟩
    simp [hovr, hedge]

/-! ## Who writes the input registers (R14, R28) -/

/-- A stimulus that is neither a SET_IN nor RESET leaves the input registers. -/
theorem exec_keeps_inp {i : Instr} (s : State) (hset : isSetIn i = false) (hreset : i ≠ .reset) :
    ∃ t, exec i s = .next t ∧ t.inp = s.inp := by
  rcases exec_cases i s with ⟨_, _, -, he⟩ | ⟨_, _, _, -, he⟩ | ⟨_, -, he⟩ | ⟨_, -, he⟩ |
    ⟨_, -, he⟩ | ⟨now, -, he⟩ | ⟨hi, -⟩ | ⟨hi, -⟩
  case inr.inr.inr.inr.inr.inl =>
    obtain ⟨t, ht, -, -, hinp, -⟩ := execPoll_next now s
    exact ⟨t, he.trans ht, hinp⟩
  case inr.inr.inr.inr.inr.inr.inl => exact absurd (hset.symm.trans hi) Bool.false_ne_true
  case inr.inr.inr.inr.inr.inr.inr => exact absurd hi hreset
  all_goals exact ⟨_, he, rfl⟩

/-- A port write sets the input registers, or `ill` where `legal` does not hold of its value. -/
theorem writePort_next {α : Type} {v : Option α} (put : α → Inputs) (s : State) {legal : Bool}
    (hv : legal = true → v ≠ none) :
    (∃ x, Host.Outcome.next (φ := Fault) (ρ := Refusal) (writePort v put s) = .next (s.setInp x)) ∨
      (legal = false ∧ Host.Outcome.next (φ := Fault) (ρ := Refusal) (writePort v put s) =
        .next (raiseIllegal s)) := by
  rcases writePort_cases v put s with ⟨a, -, he⟩ | ⟨hnone, he⟩ <;> rw [he]
  · exact .inl ⟨_, rfl⟩
  · exact .inr ⟨Bool.eq_false_of_not_eq_true fun hl => hv hl hnone, rfl⟩

theorem boolOfVal_ne_none {v : BitVec 16} (h : decide (v.toNat ≤ 1) = true) :
    boolOfVal v ≠ none := by
  simp [boolOfVal_of_le (of_decide_eq_true h)]

theorem motorCmdOfVal_ne_none {v : BitVec 16} (h : decide (v.toNat ≤ 4) = true) :
    motorCmdOfVal v ≠ none := fun hnone =>
  Nat.not_lt.mpr (of_decide_eq_true h) ((motorCmdOfVal_eq_none_iff v).mp hnone)

/-- A SET_IN writes the input registers alone, or `ill` alone where its value is out of range
(R104). -/
theorem exec_setIn_cases {i : Instr} (s : State) (hset : isSetIn i = true) :
    (∃ x, exec i s = .next (s.setInp x)) ∨
      (i.wellFormed = false ∧ exec i s = .next (raiseIllegal s)) := by
  cases i with
  | setInModeSel val => exact writePort_next _ s boolOfVal_ne_none
  | setInManTrig val => exact writePort_next _ s boolOfVal_ne_none
  | setInAutoPull val => exact writePort_next _ s boolOfVal_ne_none
  | setInTarget val => exact writePort_next _ s boolOfVal_ne_none
  | setInEvadeCmd val => exact writePort_next _ s motorCmdOfVal_ne_none
  | setInServoW0 val => exact .inl ⟨_, rfl⟩
  | setInServoW1 val => exact .inl ⟨_, rfl⟩
  | _ => cases hset

/-- No output port shows an input register (R14). -/
@[simp] theorem outputs_setInp (s : State) (x : Inputs) : outputs (s.setInp x) = outputs s := rfl

/-- Settles O53. -/
theorem onlySetInAndResetWriteInputs : Obligations.OnlySetInAndResetWriteInputs := by
  refine ⟨fun i s hset hreset => exec_keeps_inp s hset hreset, fun i s hset => ?_⟩
  obtain ⟨x, he⟩ | ⟨hill, he⟩ := exec_setIn_cases s hset
  · exact ⟨_, he, rfl, fun _ => outputs_setInp s x⟩
  · exact ⟨_, he, rfl, fun hwf => absurd (hill.symm.trans hwf) Bool.false_ne_true⟩

/-! ## The reset table (R37, R105) -/

theorem withoutLevel_eq_ok {lvl : Bool} {r : Except DecodeError Instr} {i : Instr}
    (h : withoutLevel lvl r = .ok i) : r = .ok i := by
  unfold withoutLevel at h
  split at h
  · cases h
  · exact h

theorem withoutSelect_eq_ok {sel : BitVec 4} {r : Except DecodeError Instr} {i : Instr}
    (h : withoutSelect sel r = .ok i) : r = .ok i := by
  unfold withoutSelect at h
  split at h
  · exact h
  · cases h

theorem decodeVal_eq_ok {max : Nat} {val : BitVec 16} {i j : Instr}
    (h : decodeVal max val i = .ok j) : i = j := by
  unfold decodeVal at h
  split at h
  · exact Except.ok.inj h
  · cases h

theorem decodeEcho_ne_reset (sel : BitVec 4) (lvl : Bool) (ts : Tick) :
    decodeEcho sel lvl ts ≠ .ok .reset := by
  unfold decodeEcho
  split <;> simp

theorem decodeCmp_ne_reset (sel : BitVec 4) (tick : Tick) : decodeCmp sel tick ≠ .ok .reset := by
  unfold decodeCmp
  split <;> simp

theorem decodeSetIn_ne_reset (sel : BitVec 4) (val : BitVec 16) :
    decodeSetIn sel val ≠ .ok .reset := by
  intro h
  unfold decodeSetIn at h
  split at h
  case h_1 | h_2 | h_3 | h_4 | h_5 => cases decodeVal_eq_ok h
  case h_6 | h_7 | h_8 => cases h

theorem decodeReset_eq_ok {sel : BitVec 4} {lvl : Bool} {low : BitVec 16} {i : Instr}
    (h : decodeReset sel lvl low = .ok i) : sel = 0 ∧ lvl = false ∧ low = 0 := by
  unfold decodeReset at h
  split at h
  case isTrue hfields => exact hfields
  case isFalse => cases h

/-- Only class 6 decodes to RESET, and only with every other field 0 (R222, R224). -/
theorem decodeFields_eq_reset {op sel : BitVec 4} {lvl : Bool} {low : BitVec 16}
    (h : decodeFields op sel lvl low = .ok .reset) :
    op = 6 ∧ sel = 0 ∧ lvl = false ∧ low = 0 := by
  unfold decodeFields at h
  split at h
  case h_1 => cases withoutSelect_eq_ok h
  case h_2 => exact absurd h (decodeEcho_ne_reset sel lvl low)
  case h_3 => exact absurd (withoutLevel_eq_ok h) (decodeCmp_ne_reset sel low)
  case h_4 => cases withoutSelect_eq_ok (withoutLevel_eq_ok h)
  case h_5 => exact absurd (withoutLevel_eq_ok h) (decodeSetIn_ne_reset sel low)
  case h_6 hop => exact ⟨bitVec4_of_toNat hop, decodeReset_eq_ok h⟩
  case h_7 => cases h

/-- RESET has exactly one word (R105). -/
theorem decode_eq_reset_iff (w : Word) : decode w = .ok .reset ↔ w = 0x60000000#32 := by
  constructor
  · intro h
    obtain ⟨hw, hfields⟩ := decode_eq_ok h
    obtain ⟨hop, hsel, hlvl, hlow⟩ := decodeFields_eq_reset hfields
    rw [hw, hop, hsel, hlvl, hlow]
    rfl
  · rintro rfl
    rfl

/-- Settles O14: RESET's one word, and the reset table, which depends on the parameters and the
stream alone. -/
theorem resetWritesEveryField : Obligations.ResetWritesEveryField :=
  ⟨decode_eq_reset_iff, fun _ => rfl, fun s => ⟨resetBlock s, rfl, rfl⟩, rfl, rfl⟩

/-! ## The output ports (R36) -/

@[simp] theorem eachSensor_get {α : Type} (f : Sensor → α) (x : Sensor) :
    (eachSensor f).get x = f x := by
  cases x <;> rfl

theorem outputs_trigOe_iff (s : State) (x : Sensor) :
    (outputs s).trigOe.get x = true ↔ x = s.rng.cur ∧ (s.rng.rs.get x).phase = .probeOut := by
  simp [outputs, trigOe]

theorem outputs_trigOut_iff (s : State) (x : Sensor) :
    (outputs s).trigOut.get x = true ↔
      (outputs s).trigOe.get x = true ∧ (s.rng.rs.get x).sent = true := by
  simp [outputs, trigOut]

/-- Settles O57: every port but the two trigger lines is a field of the state or its code. -/
theorem outputPortsShowTheState : Obligations.OutputPortsShowTheState := by
  intro s
  have hlines := fun x => And.intro (outputs_trigOe_iff s x) (outputs_trigOut_iff s x)
  exact ⟨rfl, rfl, rfl, rfl, rfl, hlines, rfl, rfl, rfl, rfl, rfl, rfl, rfl, rfl, rfl, rfl, rfl,
    rfl, rfl, rfl, rfl, rfl, rfl, rfl⟩

end Sys2Proof.Machine
end

section
/-!
PROOFS for `spec/20_memory.md`: the byte order of stored words, the streams and widths that hold no
stimulus, and the repeated RC edge.
-/

namespace Sys2Proof

/-! ## Byte order (R202) -/

/-- The four bytes of a word, the last one highest, are the word. -/
theorem append_bytes_of_word (w : Word) :
    w.extractLsb' 24 8 ++ w.extractLsb' 16 8 ++ w.extractLsb' 8 8 ++ w.extractLsb' 0 8 = w := by
  apply BitVec.eq_of_toNat_eq
  have hw := w.isLt
  simp only [toNat_append_eq, BitVec.extractLsb'_toNat, Nat.shiftRight_eq_div_pow]
  omega

theorem wordOfBytes_bytesOfWord_append (w : Word) (rest : List Byte) :
    wordOfBytes (bytesOfWord w ++ rest) = some (w, rest) :=
  congrArg (fun x => some (x, rest)) (append_bytes_of_word w)

theorem streamOfBytes_bytesOfWord_append (w : Word) (rest : List Byte) :
    streamOfBytes (bytesOfWord w ++ rest) = (streamOfBytes rest).map (w :: ·) :=
  congrArg (fun x => (streamOfBytes rest).map (x :: ·)) (append_bytes_of_word w)

/-- A stream laid out as bytes is read back word for word. -/
theorem streamOfBytes_flatMap_bytesOfWord (ws : List Word) :
    streamOfBytes (ws.flatMap bytesOfWord) = .ok ws := by
  induction ws with
  | nil => rfl
  | cons w ws ih =>
    rw [List.flatMap_cons, streamOfBytes_bytesOfWord_append, ih]
    rfl

/-! ## Partial words and other widths (R204) -/

theorem wordOfBytes_eq_none {bs : List Byte} (h : bs.length < 4) : wordOfBytes bs = none := by
  unfold wordOfBytes
  split
  · simp only [List.length_cons] at h
    omega
  · rfl

theorem decodeBytes_of_short {bs : List Byte} (h : bs.length < 4) :
    decodeBytes bs = .error .partialWord := by
  rw [decodeBytes, wordOfBytes_eq_none h]

/-- A stream that ends inside a word is refused however many whole words stand before its end. -/
theorem streamOfBytes_of_partial (bs : List Byte) (h : bs.length % 4 ≠ 0) :
    streamOfBytes bs = .error .partialWord := by
  induction bs using streamOfBytes.induct with
  | case1 => exact absurd rfl h
  | case2 b0 b1 b2 b3 rest ih =>
    have hrest : rest.length % 4 ≠ 0 := by
      simp only [List.length_cons] at h
      omega
    rw [streamOfBytes_cons, ih hrest]
    rfl
  | case3 bs hnil hcons => rw [streamOfBytes] <;> assumption

/-- The bytes of one word decode as the word does, and none are left. -/
theorem decodeBytes_bytesOfWord (w : Word) :
    decodeBytes (bytesOfWord w) = (decode w).map (·, []) := by
  have hw : wordOfBytes (bytesOfWord w) = some (w, []) := wordOfBytes_bytesOfWord_append w []
  simp only [decodeBytes, hw]
  cases decode w <;> rfl

theorem decodeTableWord_of_width (w : Word) : decodeTableWord 32 w.toNat = (decode w).toOption := by
  simp only [decodeTableWord, tableWord_of_width, decodeBytes_bytesOfWord]
  cases decode w <;> rfl

theorem decodeTableWord_of_other_width {nbits w : Nat} (h : nbits ≠ 32 ∨ 2 ^ 32 ≤ w) :
    decodeTableWord nbits w = none := by
  rw [decodeTableWord, tableWord_of_other_width h]

end Sys2Proof

namespace Sys2Proof.Machine

theorem withFetchWord_of_width (s : State) (w : Word) :
    s.withFetchWord 32 w.toNat = present s w := by
  rw [State.withFetchWord, tableWord_of_width]

theorem withFetchWord_of_other_width (s : State) {nbits w : Nat} (h : nbits ≠ 32 ∨ 2 ^ 32 ≤ w) :
    s.withFetchWord nbits w = s := by
  rw [State.withFetchWord, tableWord_of_other_width h]

/-- Settles O7, from the byte order of one word and the lengths of streams and table words. -/
theorem storedWordsAreWholeAndLittleEndian : Obligations.StoredWordsAreWholeAndLittleEndian :=
  ⟨fun _ => rfl, wordOfBytes_bytesOfWord_append, streamOfBytes_flatMap_bytesOfWord,
    fun _ => decodeBytes_of_short, streamOfBytes_of_partial,
    fun s w => ⟨decodeTableWord_of_width w, withFetchWord_of_width s w⟩,
    fun s _ _ h => ⟨decodeTableWord_of_other_width h, withFetchWord_of_other_width s h⟩⟩

/-! ## The latch is one register (R207) -/

/-- The latch as an RC edge leaves it (R40). -/
theorem exec_rcEdge (lvl : Bool) (ts : Tick) (s : State) :
    exec (.rcEdge lvl ts) s =
      .next (s.setLat { ts := ts, lvl := lvl, pend := true, ovr := overrun s.lat }) := rfl

/-- An RC edge on a pending edge marks the overrun. -/
theorem exec_rcEdge_of_pend (lvl : Bool) (ts : Tick) {s : State} (h : s.lat.pend = true) :
    exec (.rcEdge lvl ts) s =
      .next (s.setLat { ts := ts, lvl := lvl, pend := true, ovr := true }) := by
  rw [exec_rcEdge, (overrun_iff s.lat).mpr (.inr h)]

/-- Settles O19: the first edge is still pending when the second comes. -/
theorem repeatedRcEdgeOnlyMarksOverrun : Obligations.RepeatedRcEdgeOnlyMarksOverrun :=
  fun lvl ts s => ⟨_, _, exec_rcEdge lvl ts s, exec_rcEdge_of_pend lvl ts rfl, rfl⟩

end Sys2Proof.Machine
end

section
/-!
PROOFS for `spec/30_encoding.md`: the decoder and the encoder are inverse, the opcode table and the
list of illegal words say what the decoder does, the OR forms, the expansions of R229, and the
unread TICK.
-/

namespace Sys2Proof

/-! ## What each part of the decoder accepts (R222) -/

theorem withoutLevel_eq_ok_iff {lvl : Bool} {r : Except DecodeError Instr} {i : Instr} :
    withoutLevel lvl r = .ok i ↔ lvl = false ∧ r = .ok i := by
  cases lvl <;> simp [withoutLevel]

theorem withoutSelect_eq_ok_iff {sel : BitVec 4} {r : Except DecodeError Instr} {i : Instr} :
    withoutSelect sel r = .ok i ↔ sel = 0 ∧ r = .ok i := by
  unfold withoutSelect
  split <;> simp_all

theorem decodeVal_eq_ok_iff {max : Nat} {val : BitVec 16} {i j : Instr} :
    decodeVal max val i = .ok j ↔ val.toNat ≤ max ∧ i = j := by
  by_cases h : val.toNat ≤ max <;> simp [decodeVal, h]

theorem decodeVal_of_le {max : Nat} {val : BitVec 16} (i : Instr) (h : val.toNat ≤ max) :
    decodeVal max val i = .ok i :=
  decodeVal_eq_ok_iff.mpr ⟨h, rfl⟩

/-! ## Decoding undoes encoding (R223) -/

/-- Settles O1: the fields of a packed word are those it was packed from, so only the range of a port
value is left to check. -/
theorem decodeOfEncodeIsTheStimulus : Obligations.DecodeOfEncodeIsTheStimulus := by
  intro i hwf
  cases i with
  | rcEdge lvl ts => exact decode_pack 1 0 lvl ts
  | echoEdgeL lvl ts => exact decode_pack 2 0 lvl ts
  | echoEdgeC lvl ts => exact decode_pack 2 1 lvl ts
  | echoEdgeR lvl ts => exact decode_pack 2 2 lvl ts
  | cmpMatchMotor tick => exact decode_pack 3 0 false tick
  | cmpMatchServo tick => exact decode_pack 3 1 false tick
  | cmpMatchTrig tick => exact decode_pack 3 2 false tick
  | poll now => exact decode_pack 4 0 false now
  | setInModeSel val =>
    exact (decode_pack 5 0 false val).trans (decodeVal_of_le _ (of_decide_eq_true hwf))
  | setInManTrig val =>
    exact (decode_pack 5 1 false val).trans (decodeVal_of_le _ (of_decide_eq_true hwf))
  | setInAutoPull val =>
    exact (decode_pack 5 2 false val).trans (decodeVal_of_le _ (of_decide_eq_true hwf))
  | setInTarget val =>
    exact (decode_pack 5 3 false val).trans (decodeVal_of_le _ (of_decide_eq_true hwf))
  | setInEvadeCmd val =>
    exact (decode_pack 5 4 false val).trans (decodeVal_of_le _ (of_decide_eq_true hwf))
  | setInServoW0 val => exact decode_pack 5 5 false val
  | setInServoW1 val => exact decode_pack 5 6 false val
  | reset => exact decode_pack 6 0 false 0

/-! ## Encoding undoes decoding (R223) -/

theorem decodeEcho_eq_ok {sel : BitVec 4} {lvl : Bool} {ts : Tick} {i : Instr}
    (h : decodeEcho sel lvl ts = .ok i) : i.wellFormed = true ∧ encode i = pack 2 sel lvl ts := by
  unfold decodeEcho at h
  split at h
  case h_4 => cases h
  all_goals
    next hsel =>
      cases h
      rw [bitVec4_of_toNat hsel]
      exact ⟨rfl, rfl⟩

theorem decodeCmp_eq_ok {sel : BitVec 4} {tick : Tick} {i : Instr}
    (h : decodeCmp sel tick = .ok i) : i.wellFormed = true ∧ encode i = pack 3 sel false tick := by
  unfold decodeCmp at h
  split at h
  case h_4 => cases h
  all_goals
    next hsel =>
      cases h
      rw [bitVec4_of_toNat hsel]
      exact ⟨rfl, rfl⟩

theorem decodeSetIn_eq_ok {sel : BitVec 4} {val : BitVec 16} {i : Instr}
    (h : decodeSetIn sel val = .ok i) : i.wellFormed = true ∧ encode i = pack 5 sel false val := by
  unfold decodeSetIn at h
  split at h
  case h_1 hsel | h_2 hsel | h_3 hsel | h_4 hsel | h_5 hsel =>
    obtain ⟨hval, rfl⟩ := decodeVal_eq_ok_iff.mp h
    rw [bitVec4_of_toNat hsel]
    exact ⟨decide_eq_true hval, rfl⟩
  case h_6 hsel | h_7 hsel =>
    cases h
    rw [bitVec4_of_toNat hsel]
    exact ⟨rfl, rfl⟩
  case h_8 => cases h

/-- Fields that decode are those of a well-formed stimulus, which packs them. -/
theorem decodeFields_eq_ok {op sel : BitVec 4} {lvl : Bool} {low : BitVec 16} {i : Instr}
    (h : decodeFields op sel lvl low = .ok i) :
    i.wellFormed = true ∧ encode i = pack op sel lvl low := by
  unfold decodeFields at h
  split at h
  case h_1 hop =>
    obtain ⟨rfl, hi⟩ := withoutSelect_eq_ok_iff.mp h
    cases hi
    rw [bitVec4_of_toNat hop]
    exact ⟨rfl, rfl⟩
  case h_2 hop =>
    rw [bitVec4_of_toNat hop]
    exact decodeEcho_eq_ok h
  case h_3 hop =>
    obtain ⟨rfl, hi⟩ := withoutLevel_eq_ok_iff.mp h
    rw [bitVec4_of_toNat hop]
    exact decodeCmp_eq_ok hi
  case h_4 hop =>
    obtain ⟨rfl, hsel⟩ := withoutLevel_eq_ok_iff.mp h
    obtain ⟨rfl, hi⟩ := withoutSelect_eq_ok_iff.mp hsel
    cases hi
    rw [bitVec4_of_toNat hop]
    exact ⟨rfl, rfl⟩
  case h_5 hop =>
    obtain ⟨rfl, hi⟩ := withoutLevel_eq_ok_iff.mp h
    rw [bitVec4_of_toNat hop]
    exact decodeSetIn_eq_ok hi
  case h_6 hop =>
    obtain ⟨rfl, rfl, rfl⟩ := Machine.decodeReset_eq_ok h
    cases h
    rw [bitVec4_of_toNat hop]
    exact ⟨rfl, rfl⟩
  case h_7 => cases h

/-- Settles O2: a legal word is the packing of its fields, and so is the encoding of what they decode
to. -/
theorem encodeOfDecodeIsTheWord : Obligations.EncodeOfDecodeIsTheWord := by
  intro w i h
  obtain ⟨hw, hfields⟩ := decode_eq_ok h
  obtain ⟨hwf, henc⟩ := decodeFields_eq_ok hfields
  exact ⟨hwf, henc.trans hw.symm⟩

/-! ## The opcode table (R222) -/

/-- The encoding of a well-formed stimulus is matched by a row with its mnemonic. -/
theorem exists_row_of_wellFormed (i : Instr) : Laws.EncodeMatchesRow.Statement i := by
  cases i with
  | rcEdge lvl ts => exact Laws.EncodeMatchesRow.rcEdge lvl ts
  | echoEdgeL lvl ts => exact Laws.EncodeMatchesRow.echoEdgeL lvl ts
  | echoEdgeC lvl ts => exact Laws.EncodeMatchesRow.echoEdgeC lvl ts
  | echoEdgeR lvl ts => exact Laws.EncodeMatchesRow.echoEdgeR lvl ts
  | cmpMatchMotor tick => exact Laws.EncodeMatchesRow.cmpMatchMotor tick
  | cmpMatchServo tick => exact Laws.EncodeMatchesRow.cmpMatchServo tick
  | cmpMatchTrig tick => exact Laws.EncodeMatchesRow.cmpMatchTrig tick
  | poll now => exact Laws.EncodeMatchesRow.poll now
  | setInModeSel val => exact Laws.EncodeMatchesRow.setInModeSel val
  | setInManTrig val => exact Laws.EncodeMatchesRow.setInManTrig val
  | setInAutoPull val => exact Laws.EncodeMatchesRow.setInAutoPull val
  | setInTarget val => exact Laws.EncodeMatchesRow.setInTarget val
  | setInEvadeCmd val => exact Laws.EncodeMatchesRow.setInEvadeCmd val
  | setInServoW0 val => exact Laws.EncodeMatchesRow.setInServoW0 val
  | setInServoW1 val => exact Laws.EncodeMatchesRow.setInServoW1 val
  | reset => exact Laws.EncodeMatchesRow.reset

/-- A legal word is matched by a row with the mnemonic of its stimulus. -/
theorem exists_row_of_decode_eq_ok {w : Word} {i : Instr} (h : decode w = .ok i) :
    ∃ r ∈ opcodeTable, r.mnemonic = i.mnemonic ∧ r.matches w = true := by
  obtain ⟨hwf, rfl⟩ := encodeOfDecodeIsTheWord w i h
  exact exists_row_of_wellFormed i hwf

theorem Row.matches_iff (r : Row) (w : Word) :
    r.matches w = true ↔ w &&& r.mask = r.pattern ∧ w.toNat % 8 ≤ r.lowMax := by
  simp [Row.matches, BitVec.extractLsb'_toNat]

/-- Two rows that a word matches both agree on the bits that both masks fix. -/
theorem Row.agree_of_matches {r q : Row} {w : Word} (hr : r.matches w = true)
    (hq : q.matches w = true) : r.pattern &&& q.mask = q.pattern &&& r.mask := by
  obtain ⟨hr, -⟩ := (r.matches_iff w).mp hr
  obtain ⟨hq, -⟩ := (q.matches_iff w).mp hq
  rw [← hr, ← hq]
  ac_rfl

/-- Any two rows of the table differ in a bit that both masks fix. -/
theorem opcodeTable_pairwise_disagree :
    opcodeTable.Pairwise fun r q => r.pattern &&& q.mask ≠ q.pattern &&& r.mask := by decide

/-- A list that has a member, and no two members, is that member alone. -/
theorem eq_singleton_of_pairwise_false {α : Type} {l : List α} {a : α} (hmem : a ∈ l)
    (hpair : l.Pairwise fun _ _ => False) : l = [a] := by
  cases hpair with
  | nil => cases hmem
  | @cons b l hb =>
    cases l with
    | nil => rw [List.mem_singleton.mp hmem]
    | cons c l => exact (hb c List.mem_cons_self).elim

/-- "At most one row matches any word": two that do would agree where they differ. -/
theorem filter_matches_eq_singleton {r : Row} {w : Word} (hmem : r ∈ opcodeTable)
    (hr : r.matches w = true) : opcodeTable.filter (fun r => r.matches w) = [r] := by
  refine eq_singleton_of_pairwise_false (List.mem_filter.mpr ⟨hmem, hr⟩) ?_
  refine (opcodeTable_pairwise_disagree.filter _).imp_of_mem fun ha hb hne => hne ?_
  exact Row.agree_of_matches (List.mem_filter.mp ha).2 (List.mem_filter.mp hb).2

/-- A word whose top bits are those of `p` is `p` and its own low bits. -/
theorem toNat_of_and_topMask_eq {w p : Word} {k : Nat} (hk : k ≤ 32) (hp : 2 ^ k ∣ p.toNat)
    (h : w &&& BitVec.ofNat 32 ((2 ^ (32 - k) - 1) * 2 ^ k) = p) :
    w.toNat = p.toNat + w.toNat % 2 ^ k := by
  have hc : p.toNat / 2 ^ k < 2 ^ (32 - k) := by
    rw [Nat.div_lt_iff_lt_mul (Nat.two_pow_pos k), ← Nat.pow_add, Nat.sub_add_cancel hk]
    exact p.isLt
  have hquot : w.toNat / 2 ^ k = p.toNat / 2 ^ k := by
    refine (and_topMask_eq_iff w k hk _ hc).mp ?_
    rw [h, Nat.div_mul_cancel hp, BitVec.ofNat_toNat, BitVec.setWidth_eq]
  calc w.toNat = w.toNat / 2 ^ k * 2 ^ k + w.toNat % 2 ^ k := (Nat.div_add_mod' _ _).symm
    _ = p.toNat + w.toNat % 2 ^ k := by rw [hquot, Nat.div_mul_cancel hp]

/-- The level and the low half of a word with RSV 0 are its 17 low bits. -/
theorem eq_pack_of_toNat {op sel : BitVec 4} {w : Word} {r : Nat} (hr : r < 2 ^ 17)
    (hw : w.toNat = op.toNat * 2 ^ 28 + sel.toNat * 2 ^ 24 + r) :
    w = pack op sel (lvlField w) (lowField w) ∧
      (lvlField w).toNat * 2 ^ 16 + (lowField w).toNat = r := by
  have hlow : (lvlField w).toNat * 2 ^ 16 + (lowField w).toNat = r := by
    rw [toNat_lvlField, toNat_lowField]
    omega
  refine ⟨BitVec.eq_of_toNat_eq ?_, hlow⟩
  rw [toNat_pack, hw, ← hlow, ← Nat.add_assoc]

/-- A word that matches a row, all but whose `k` low bits are fixed, has the row's class and selector,
and its level and low half lie within those `k` bits. -/
theorem eq_pack_of_matches {op sel : BitVec 4} {k max : Nat} {m : String} {w : Word} (hk : k ≤ 17)
    (h : Row.matches ⟨m, pack op sel false 0, BitVec.ofNat 32 ((2 ^ (32 - k) - 1) * 2 ^ k), max⟩ w =
      true) :
    w = pack op sel (lvlField w) (lowField w) ∧
      (lvlField w).toNat * 2 ^ 16 + (lowField w).toNat < 2 ^ k ∧ (lowField w).toNat % 8 ≤ max := by
  obtain ⟨hmask, hmax⟩ := (Row.matches_iff _ w).mp h
  have hpat : (pack op sel false 0).toNat = op.toNat * 2 ^ 28 + sel.toNat * 2 ^ 24 := by
    simp [toNat_pack]
  have hdvd : 2 ^ k ∣ (pack op sel false 0).toNat :=
    (Nat.pow_dvd_pow 2 hk).trans ⟨op.toNat * 2 ^ 11 + sel.toNat * 2 ^ 7, by rw [hpat]; ring⟩
  have hmod : w.toNat % 2 ^ k < 2 ^ k := Nat.mod_lt _ (Nat.two_pow_pos k)
  have hsum := toNat_of_and_topMask_eq (by omega) hdvd hmask
  rw [hpat] at hsum
  obtain ⟨hw, hlow⟩ :=
    eq_pack_of_toNat (hmod.trans_le (Nat.pow_le_pow_right (by decide) hk)) hsum
  refine ⟨hw, hlow.trans_lt hmod, ?_⟩
  rwa [toNat_lowField, Nat.mod_mod_of_dvd _ (by decide)]

/-- A word that matches such a row is legal, where the decoder accepts each level and low half within
the row's low bits. -/
theorem legal_of_matches {op sel : BitVec 4} {k max : Nat} {m : String} {w : Word} (hk : k ≤ 17)
    (hfields : ∀ lvl low, lvl.toNat * 2 ^ 16 + low.toNat < 2 ^ k → low.toNat % 8 ≤ max →
      ∃ i, decodeFields op sel lvl low = .ok i)
    (h : Row.matches ⟨m, pack op sel false 0, BitVec.ofNat 32 ((2 ^ (32 - k) - 1) * 2 ^ k), max⟩ w =
      true) : ∃ i, decode w = .ok i := by
  obtain ⟨hw, hlow, hmax⟩ := eq_pack_of_matches hk h
  rw [hw, decode_pack]
  exact hfields _ _ hlow hmax

/-- Within the 16 low bits there is no level. -/
theorem level_eq_false_of_lt {lvl : Bool} {low : BitVec 16} {k : Nat} (hk : k ≤ 16)
    (h : lvl.toNat * 2 ^ 16 + low.toNat < 2 ^ k) : lvl = false ∧ low.toNat < 2 ^ k := by
  have hpow : 2 ^ k ≤ 2 ^ 16 := Nat.pow_le_pow_right (by decide) hk
  cases lvl with
  | false => exact ⟨rfl, by simpa using h⟩
  | true => exact absurd (h.trans_le hpow) (by simp)

/-- A word that matches the row of a class with a level, every operand of which decodes, is legal. -/
theorem legal_of_matches_leveled (op sel : BitVec 4) {max : Nat} {m : String} {w : Word}
    (hfields : ∀ lvl low, ∃ i, decodeFields op sel lvl low = .ok i)
    (h : Row.matches ⟨m, pack op sel false 0, 0xFFFE0000, max⟩ w = true) : ∃ i, decode w = .ok i :=
  legal_of_matches (k := 17) (by decide) (fun lvl low _ _ => hfields lvl low) h

/-- The same for a class without a level. -/
theorem legal_of_matches_unleveled (op sel : BitVec 4) {max : Nat} {m : String} {w : Word}
    (hfields : ∀ low, ∃ i, decodeFields op sel false low = .ok i)
    (h : Row.matches ⟨m, pack op sel false 0, 0xFFFF0000, max⟩ w = true) : ∃ i, decode w = .ok i := by
  refine legal_of_matches (k := 16) (by decide) (fun lvl low hlow _ => ?_) h
  obtain ⟨rfl, -⟩ := level_eq_false_of_lt (by decide) hlow
  exact hfields low

/-- The same for a port of one bit. -/
theorem legal_of_matches_bit (op sel : BitVec 4) {max : Nat} {m : String} {w : Word}
    (hfields : ∀ low, low.toNat ≤ 1 → ∃ i, decodeFields op sel false low = .ok i)
    (h : Row.matches ⟨m, pack op sel false 0, 0xFFFFFFFE, max⟩ w = true) : ∃ i, decode w = .ok i := by
  refine legal_of_matches (k := 1) (by decide) (fun lvl low hlow _ => ?_) h
  obtain ⟨rfl, hval⟩ := level_eq_false_of_lt (by decide) hlow
  exact hfields low (by omega)

/-- Every row of the table matches legal words only. -/
theorem legal_of_row (w : Word) : ∀ r ∈ opcodeTable, r.matches w = true → ∃ i, decode w = .ok i := by
  simp only [opcodeTable, List.forall_mem_cons]
  refine ⟨?_, ?_, ?_, ?_, ?_, ?_, ?_, ?_, ?_, ?_, ?_, ?_, ?_, ?_, ?_, ?_, ?_⟩
  · exact legal_of_matches_leveled 1 0 fun _ _ => ⟨_, rfl⟩
  · exact legal_of_matches_leveled 2 0 fun _ _ => ⟨_, rfl⟩
  · exact legal_of_matches_leveled 2 1 fun _ _ => ⟨_, rfl⟩
  · exact legal_of_matches_leveled 2 2 fun _ _ => ⟨_, rfl⟩
  · exact legal_of_matches_unleveled 3 0 fun _ => ⟨_, rfl⟩
  · exact legal_of_matches_unleveled 3 1 fun _ => ⟨_, rfl⟩
  · exact legal_of_matches_unleveled 3 2 fun _ => ⟨_, rfl⟩
  · exact legal_of_matches_unleveled 4 0 fun _ => ⟨_, rfl⟩
  · exact legal_of_matches_bit 5 0 fun _ h => ⟨_, decodeVal_of_le _ h⟩
  · exact legal_of_matches_bit 5 1 fun _ h => ⟨_, decodeVal_of_le _ h⟩
  · exact legal_of_matches_bit 5 2 fun _ h => ⟨_, decodeVal_of_le _ h⟩
  · exact legal_of_matches_bit 5 3 fun _ h => ⟨_, decodeVal_of_le _ h⟩
  · refine legal_of_matches (op := 5) (sel := 4) (k := 3) (by decide) fun lvl low hlow hmax => ?_
    obtain ⟨rfl, hval⟩ := level_eq_false_of_lt (by decide) hlow
    exact ⟨_, decodeVal_of_le (max := 4) _ (by omega)⟩
  · exact legal_of_matches_unleveled 5 5 fun _ => ⟨_, rfl⟩
  · exact legal_of_matches_unleveled 5 6 fun _ => ⟨_, rfl⟩
  · refine legal_of_matches (op := 6) (sel := 0) (k := 0) (by decide) fun lvl low hlow _ => ?_
    obtain ⟨rfl, hval⟩ := level_eq_false_of_lt (by decide) hlow
    obtain rfl : low = 0 := BitVec.eq_of_toNat_eq (by simpa using hval)
    exact ⟨_, rfl⟩
  · simp

/-- Settles O3: a legal word has the row of its stimulus and no other, and a row matches legal words
only. -/
theorem decodeFollowsTheOpcodeTable : Obligations.DecodeFollowsTheOpcodeTable := by
  intro w
  cases hd : decode w with
  | ok i =>
    obtain ⟨r, hmem, hmn, hr⟩ := exists_row_of_decode_eq_ok hd
    exact ⟨r, filter_matches_eq_singleton hmem hr, hmn⟩
  | error e =>
    refine List.filter_eq_nil_iff.mpr fun r hmem hr => ?_
    obtain ⟨i, hi⟩ := legal_of_row w r hmem hr
    cases hd.symm.trans hi

/-! ## The illegal words (R224) -/

theorem withoutLevel_eq_error_iff {lvl : Bool} {r : Except DecodeError Instr} :
    (∃ e, withoutLevel lvl r = .error e) ↔ lvl = true ∨ ∃ e, r = .error e := by
  cases lvl <;> simp [withoutLevel]

theorem withoutSelect_eq_error_iff {sel : BitVec 4} {r : Except DecodeError Instr} :
    (∃ e, withoutSelect sel r = .error e) ↔ sel ≠ 0 ∨ ∃ e, r = .error e := by
  unfold withoutSelect
  split <;> simp_all

theorem decodeVal_eq_error_iff {max : Nat} {val : BitVec 16} {i : Instr} :
    (∃ e, decodeVal max val i = .error e) ↔ max < val.toNat := by
  unfold decodeVal
  split
  case isTrue h => simpa using h
  case isFalse h => simpa using h

theorem decodeEcho_eq_error_iff {sel : BitVec 4} {lvl : Bool} {ts : Tick} :
    (∃ e, decodeEcho sel lvl ts = .error e) ↔ 3 ≤ sel.toNat := by
  unfold decodeEcho
  generalize sel.toNat = n
  match n with
  | 0 | 1 | 2 | n + 3 => simp

theorem decodeCmp_eq_error_iff {sel : BitVec 4} {tick : Tick} :
    (∃ e, decodeCmp sel tick = .error e) ↔ 3 ≤ sel.toNat := by
  unfold decodeCmp
  generalize sel.toNat = n
  match n with
  | 0 | 1 | 2 | n + 3 => simp

theorem decodeSetIn_eq_error_iff {sel : BitVec 4} {val : BitVec 16} :
    (∃ e, decodeSetIn sel val = .error e) ↔ 7 ≤ sel.toNat ∨ (sel.toNat ≤ 3 ∧ 1 < val.toNat) ∨
      (sel = 4 ∧ 4 < val.toNat) := by
  have hport : sel = 4 ↔ sel.toNat = 4 := BitVec.toNat_inj.symm
  rw [hport]
  unfold decodeSetIn
  generalize sel.toNat = n
  match n with
  | 0 | 1 | 2 | 3 | 4 => exact decodeVal_eq_error_iff.trans (by omega)
  | 5 | 6 | n + 7 => simp

theorem decodeReset_eq_error_iff {sel : BitVec 4} {lvl : Bool} {low : BitVec 16} :
    (∃ e, decodeReset sel lvl low = .error e) ↔ ¬(sel = 0 ∧ lvl = false ∧ low = 0) := by
  unfold decodeReset
  split <;> simp_all

/-- The 28 low bits of a word are the fields below OP. -/
theorem low28_eq_zero_iff (w : Word) :
    w.extractLsb' 0 28 = 0 ↔
      rsvField w = 0 ∧ selField w = 0 ∧ lvlField w = false ∧ lowField w = 0 := by
  have hlvl : lvlField w = false ↔ (lvlField w).toNat = 0 := Bool.toNat_eq_zero.symm
  rw [hlvl, ← BitVec.toNat_inj, ← BitVec.toNat_inj, ← BitVec.toNat_inj, ← BitVec.toNat_inj,
    toNat_rsvField, toNat_selField, toNat_lvlField, toNat_lowField]
  simp only [BitVec.extractLsb'_toNat, Nat.shiftRight_zero, BitVec.ofNat_eq_ofNat, BitVec.toNat_ofNat]
  omega

/-- The fields of a word with RSV 0 are rejected exactly by the bullets of R224. -/
theorem decodeFields_eq_error_iff {op sel : BitVec 4} {lvl : Bool} {low : BitVec 16} :
    (∃ e, decodeFields op sel lvl low = .error e) ↔
      (op = 0 ∨ 7 ≤ op.toNat) ∨ (op = 1 ∧ sel ≠ 0) ∨ (op = 2 ∧ 3 ≤ sel.toNat) ∨
      (op = 3 ∧ (3 ≤ sel.toNat ∨ lvl = true)) ∨ (op = 4 ∧ (sel ≠ 0 ∨ lvl = true)) ∨
      (op = 5 ∧ (7 ≤ sel.toNat ∨ lvl = true ∨ (sel.toNat ≤ 3 ∧ 1 < low.toNat) ∨
        (sel = 4 ∧ 4 < low.toNat))) ∨
      (op = 6 ∧ ¬(sel = 0 ∧ lvl = false ∧ low = 0)) := by
  unfold decodeFields
  split
  case h_1 hop =>
    rw [withoutSelect_eq_error_iff, bitVec4_of_toNat hop]
    simp
  case h_2 hop =>
    rw [decodeEcho_eq_error_iff, bitVec4_of_toNat hop]
    simp
  case h_3 hop =>
    rw [withoutLevel_eq_error_iff, decodeCmp_eq_error_iff, bitVec4_of_toNat hop]
    simp [or_comm]
  case h_4 hop =>
    rw [withoutLevel_eq_error_iff, withoutSelect_eq_error_iff, bitVec4_of_toNat hop]
    simp [or_comm]
  case h_5 hop =>
    rw [withoutLevel_eq_error_iff, decodeSetIn_eq_error_iff, bitVec4_of_toNat hop]
    simp [or_left_comm]
  case h_6 hop =>
    rw [decodeReset_eq_error_iff, bitVec4_of_toNat hop]
    simp
  case h_7 h1 h2 h3 h4 h5 h6 =>
    have hzero : op = 0 ↔ op.toNat = 0 := BitVec.toNat_inj.symm
    have hop : op = 0 ∨ 7 ≤ op.toNat := by
      rw [hzero]
      simp only [imp_false] at h1 h2 h3 h4 h5 h6
      omega
    exact iff_of_true ⟨_, rfl⟩ (.inl hop)

/-- A word is rejected for its reserved bits or, where they are 0, for its other fields. -/
theorem decode_eq_error_iff (w : Word) :
    (∃ e, decode w = .error e) ↔ rsvField w ≠ 0 ∨
      ∃ e, decodeFields (opField w) (selField w) (lvlField w) (lowField w) = .error e := by
  unfold decode
  split <;> simp_all

/-! ## The OR forms (R223) -/

/-- A packed word is the OR of its shifted fields. -/
theorem pack_eq_or (op sel : BitVec 4) (lvl : Bool) (low : BitVec 16) :
    pack op sel lvl low = op.setWidth 32 <<< 28 ||| sel.setWidth 32 <<< 24 |||
      (BitVec.ofBool lvl).setWidth 32 <<< 16 ||| low.setWidth 32 := by
  ext i hi
  simp only [pack, BitVec.getElem_or, BitVec.getElem_shiftLeft]
  grind

theorem pack_eq_or_of_no_select (op : BitVec 4) (lvl : Bool) (low : BitVec 16) :
    pack op 0 lvl low = op.setWidth 32 <<< 28 ||| (BitVec.ofBool lvl).setWidth 32 <<< 16 |||
      low.setWidth 32 := by
  simp [pack_eq_or]

theorem pack_eq_or_of_no_level (op sel : BitVec 4) (low : BitVec 16) :
    pack op sel false low = op.setWidth 32 <<< 28 ||| sel.setWidth 32 <<< 24 ||| low.setWidth 32 := by
  simp [pack_eq_or]

/-- Settles O5: each form is the OR of a packed word's fields, less those that are 0. -/
theorem encodersAreTheOrForms : Obligations.EncodersAreTheOrForms := by
  refine ⟨fun l t => ⟨?_, ?_, ?_, ?_⟩, fun t => ⟨?_, ?_, ?_, ?_⟩,
    fun v => ⟨?_, ?_, ?_, ?_, ?_, ?_, ?_⟩, rfl⟩
  · exact pack_eq_or_of_no_select 1 l t
  · exact pack_eq_or 2 0 l t
  · exact pack_eq_or 2 1 l t
  · exact pack_eq_or 2 2 l t
  · exact pack_eq_or_of_no_level 3 0 t
  · exact pack_eq_or_of_no_level 3 1 t
  · exact pack_eq_or_of_no_level 3 2 t
  · exact pack_eq_or_of_no_level 4 0 t
  · exact pack_eq_or_of_no_level 5 0 v
  · exact pack_eq_or_of_no_level 5 1 v
  · exact pack_eq_or_of_no_level 5 2 v
  · exact pack_eq_or_of_no_level 5 3 v
  · exact pack_eq_or_of_no_level 5 4 v
  · exact pack_eq_or_of_no_level 5 5 v
  · exact pack_eq_or_of_no_level 5 6 v

end Sys2Proof

namespace Sys2Proof.Machine

/-! ## Applying an illegal word (R102, R224) -/

theorem step_present_of_error {w : Word} {e : DecodeError} (s : State) (h : decode w = .error e) :
    step (present s w) = .next (raiseIllegal s) := by
  rcases step_cases (present s w) with ⟨hs, -⟩ | ⟨_, _, i, hs, hd, -⟩ | ⟨_, _, _, hs, -, he⟩
  · cases hs
  · cases hs
    cases h.symm.trans hd
  · cases hs
    exact he

/-- Settles O4: the bullets are the rejections of the decoder's parts, put together. -/
theorem illegalWordsAreExactlyTheListed : Obligations.IllegalWordsAreExactlyTheListed := by
  refine ⟨fun w => ?_, fun w e s h => step_present_of_error s h⟩
  rw [decode_eq_error_iff, decodeFields_eq_error_iff, ne_eq (w.extractLsb' 0 28), low28_eq_zero_iff]
  by_cases hrsv : rsvField w = 0
  · simp only [hrsv, ne_eq, not_true_eq_false, false_or, or_false, true_and]
  · simp only [hrsv, ne_eq, not_false_eq_true, true_or, or_true]

/-! ## Expansions (R229) -/

theorem toNat_nextFall (t w g : Tick) :
    (nextFall t w g).toNat = (t.toNat + w.toNat + g.toNat) % 65536 := by
  rw [nextFall, BitVec.toNat_add, BitVec.toNat_add, Nat.mod_add_mod]

/-- Settles O8: both expansions are one low phase, and tick sums are modular. -/
theorem macrosExpandToFourStimuli : Obligations.MacrosExpandToFourStimuli :=
  fun t w g => ⟨rfl, rfl, toNat_tickAdd t w, toNat_nextFall t w g⟩

/-! ## The TICK of a compare match (R226) -/

/-- Settles O37: each compare match writes one unit's registers, from the state alone. -/
theorem compareTickIsNotRead : Obligations.CompareTickIsNotRead :=
  fun _ _ _ => ⟨rfl, rfl, rfl, ⟨_, rfl, rfl⟩, ⟨_, rfl, rfl⟩, _, rfl, rfl⟩

end Sys2Proof.Machine
end

section
/-!
PROOFS for `spec/40_rc_decoder.md`: the RC edge, the decoder step state by state, the void check and the
command lookup at POLL, who writes the decoder registers, and the reception of a whole frame.
-/

namespace Sys2Proof.Machine

/-! ## The decoder step, state by state (R42 to R54) -/

/-- The decoder with no frame, in state `c` since the edge at `ts`: what `EnterReset` and `NewSession`
leave (R42, R43). -/
def clearedAt (c : DecState) (ts : Tick) : Decoder :=
  { state := c, tEdge := ts, bitIdx := 0, frame := 0, ready := false }

section DecoderStep

variable {p : Config.Params} {ts : Tick} {d : Decoder} (lvl : Bool)

theorem decStep_of_reset (h : d.state = .reset) :
    decStep p ts lvl d =
      { d with state := if lvl = true then .reset else .startFall, tEdge := ts } := by
  cases lvl <;> simp [decStep, decRule, h]

theorem decStep_of_startFall (h : d.state = .startFall) :
    decStep p ts lvl d =
      if lvl = true ∧ (p.startLow.val : Int) < sdiff ts d.tEdge then
        { d with state := .startRise, tEdge := ts }
      else clearedAt .reset ts := by
  cases lvl with
  | false => simp [decStep, decRule, h, enterReset, clearedAt]
  | true =>
    by_cases hw : (p.startLow.val : Int) < sdiff ts d.tEdge <;>
      simp [decStep, decRule, h, enterReset, clearedAt, exceeds, hw]

theorem decStep_of_startRise (h : d.state = .startRise) :
    decStep p ts lvl d =
      if lvl = false ∧ (p.startIdle.val : Int) < sdiff ts d.tEdge then clearedAt .recvFall ts
      else clearedAt .reset ts := by
  cases lvl with
  | true => simp [decStep, decRule, h, enterReset, clearedAt]
  | false =>
    by_cases hw : (p.startIdle.val : Int) < sdiff ts d.tEdge <;>
      simp [decStep, decRule, h, enterReset, newSession, clearedAt, exceeds, hw]

theorem decStep_true_of_recvFall (h : d.state = .recvFall) :
    decStep p ts true d = { bitCapture p (sdiff ts d.tEdge) d with tEdge := ts } := by
  simp [decStep, decRule, h]

theorem decStep_false_of_recvFall (h : d.state = .recvFall) :
    decStep p ts false d = clearedAt .reset ts := by
  simp [decStep, decRule, h, enterReset, clearedAt]

theorem decStep_true_of_recvRise (h : d.state = .recvRise) :
    decStep p ts true d = clearedAt .reset ts := by
  simp [decStep, decRule, h, enterReset, clearedAt]

theorem decStep_false_of_recvRise (h : d.state = .recvRise) :
    decStep p ts false d = { d with state := .recvFall, tEdge := ts } := by
  simp [decStep, decRule, h]

theorem decStep_of_contRise2 (h : d.state = .contRise2) :
    decStep p ts lvl d =
      { d with state := if lvl = true then .contRise2 else .contFall1, tEdge := ts } := by
  cases lvl <;> simp [decStep, decRule, h]

theorem decStep_of_contFall1 (h : d.state = .contFall1) :
    decStep p ts lvl d =
      { d with
        state := if lvl = true ∧ (p.startLow.val : Int) < sdiff ts d.tEdge then .contRise1
          else .contFall2
        tEdge := ts } := by
  cases lvl with
  | false => simp [decStep, decRule, h]
  | true =>
    by_cases hw : (p.startLow.val : Int) < sdiff ts d.tEdge <;>
      simp [decStep, decRule, h, exceeds, hw]

theorem decStep_of_contRise1 (h : d.state = .contRise1) :
    decStep p ts lvl d =
      if lvl = true then { d with state := .contFall2, tEdge := ts }
      else if (p.startIdle.val : Int) < sdiff ts d.tEdge then clearedAt .recvFall ts
      else if (p.contIdle.val : Int) < sdiff ts d.tEdge then
        { d with state := .contFall2, tEdge := ts }
      else clearedAt .reset ts := by
  cases lvl with
  | true => simp [decStep, decRule, h]
  | false =>
    by_cases hnew : (p.startIdle.val : Int) < sdiff ts d.tEdge
    · simp [decStep, decRule, h, newSession, clearedAt, exceeds, hnew]
    · by_cases hkeep : (p.contIdle.val : Int) < sdiff ts d.tEdge <;>
        simp [decStep, decRule, h, enterReset, clearedAt, exceeds, hnew, hkeep]

theorem decStep_of_contFall2 (h : d.state = .contFall2) :
    decStep p ts lvl d =
      { d with state := if lvl = true then .contRise2 else .contFall1, tEdge := ts } := by
  cases lvl <;> simp [decStep, decRule, h]

end DecoderStep

/-! ## Bit capture (R48) -/

theorem bitCapture_frame (p : Config.Params) (w : Int) (d : Decoder) :
    (bitCapture p w d).frame = capturedFrame p w d := by
  obtain ⟨-, he⟩ | ⟨-, he⟩ := bitCapture_cases p w d <;> rw [he]

theorem bitCapture_ready (p : Config.Params) (w : Int) (d : Decoder) :
    (bitCapture p w d).ready = if d.bitIdx.toNat + 1 = 32 then true else d.ready := by
  obtain ⟨hlast, he⟩ | ⟨hmore, he⟩ := bitCapture_cases p w d <;> rw [he]
  · exact (if_pos hlast).symm
  · exact (if_neg hmore).symm

/-- The captured bit goes to its payload position, and every other frame bit is kept. -/
theorem capturedFrame_getLsbD (p : Config.Params) (w : Int) (d : Decoder) (k : Nat) :
    (capturedFrame p w d).getLsbD k =
      if d.bitIdx.toNat = 16 + k ∧ k < payloadCount p.payloadBits then dataBit p w
      else d.frame.getLsbD k := by
  split
  case isTrue h =>
    obtain ⟨hidx, hk⟩ := h
    have hcount := payloadCount_le p.payloadBits
    have hpay : isPayload p d.bitIdx.toNat = true := (isPayload_iff p _).mpr (by omega)
    rw [capturedFrame, if_pos hpay, getLsbD_setFrameBit _ _ _ _ (by omega), if_pos (by omega)]
  case isFalse h =>
    refine capturedFrame_getLsbD_of_ne p w d fun hpay => ?_
    have hrange := (isPayload_iff p _).mp hpay
    omega

/-- The decoder between two bits of a session, `n` of its bits received; the 32nd completes it. -/
structure Received (n : Nat) (d : Decoder) : Prop where
  count : d.bitIdx.toNat = n
  state : d.state = if n = 32 then .contRise2 else .recvRise
  complete : n = 32 → d.ready = true

/-- A rising edge in RecvFall captures and counts one bit. -/
theorem received_bitCapture (p : Config.Params) (w : Int) {d : Decoder} {n : Nat}
    (hidx : d.bitIdx.toNat = n) (hn : n < 32) : Received (n + 1) (bitCapture p w d) := by
  have hcount : (d.bitIdx + 1).toNat = n + 1 := by bv_omega
  obtain ⟨hlast, he⟩ | ⟨hmore, he⟩ := bitCapture_cases p w d <;> rw [hidx] at * <;> rw [he]
  · exact ⟨hcount, (if_pos hlast).symm, fun _ => rfl⟩
  · exact ⟨hcount, (if_neg hmore).symm, fun hlast => absurd hlast hmore⟩

theorem Received.setTEdge {n : Nat} {d : Decoder} (h : Received n d) (ts : Tick) :
    Received n { d with tEdge := ts } :=
  { h with }

/-! ## A whole frame at the decoder (R62) -/

/-- The decoder after both edges of one low phase that starts at `t` and lasts `w` ticks. -/
def afterLowPhase (p : Config.Params) (t w : Tick) (d : Decoder) : Decoder :=
  decStep p (t + w) true (decStep p t false d)

/-- The decoder after the low phases of data bits from `t` on. -/
def afterBits (p : Config.Params) (t : Tick) (bits : List (Tick × Tick)) (d : Decoder) : Decoder :=
  match bits with
  | [] => d
  | (w, g) :: rest => afterBits p (nextFall t w g) rest (afterLowPhase p t w d)

/-- A low phase whose falling edge leads to RecvFall is one captured bit. -/
theorem afterLowPhase_of_recvFall {p : Config.Params} {t : Tick} (w : Tick) {d : Decoder}
    (h : (decStep p t false d).state = .recvFall) :
    afterLowPhase p t w d =
      { bitCapture p w.toInt (decStep p t false d) with tEdge := t + w } := by
  rw [afterLowPhase, decStep_true_of_recvFall h, decStep_tEdge, sdiff_add_left]

/-- One more low phase of a session is one more bit, stored where its position is a payload one. -/
theorem received_afterLowPhase (p : Config.Params) (t w : Tick) {d : Decoder} {n : Nat}
    (h : Received n d) (hn : n < 32) :
    Received (n + 1) (afterLowPhase p t w d) ∧
      ∀ k, (afterLowPhase p t w d).frame.getLsbD k =
        if n = 16 + k ∧ k < payloadCount p.payloadBits then dataBit p w.toInt
        else d.frame.getLsbD k := by
  have hstate : d.state = .recvRise := h.state.trans (if_neg hn.ne)
  have hfall := decStep_false_of_recvRise (p := p) (ts := t) hstate
  rw [afterLowPhase_of_recvFall w (by rw [hfall]), hfall]
  refine ⟨.setTEdge (received_bitCapture p _ ?_ hn) _, fun k => ?_⟩
  · exact h.count
  · rw [bitCapture_frame, capturedFrame_getLsbD, h.count]

/-- The remaining bits of a session complete it, and each payload position among them takes the class
of its bit. -/
theorem received_afterBits (p : Config.Params) (t : Tick) (bits : List (Tick × Tick)) {d : Decoder}
    {n : Nat} (h : Received n d) (hlen : n + bits.length = 32) :
    Received 32 (afterBits p t bits d) ∧
      ∀ k, k < payloadCount p.payloadBits → (afterBits p t bits d).frame.getLsbD k =
        if n ≤ 16 + k then dataBit p (bits.getD (16 + k - n) (0, 0)).1.toInt
        else d.frame.getLsbD k := by
  induction bits generalizing t d n with
  | nil =>
    obtain rfl : n = 32 := hlen
    refine ⟨h, fun k hk => (if_neg ?_).symm⟩
    have hcount := payloadCount_le p.payloadBits
    omega
  | cons bit rest ih =>
    obtain ⟨w, g⟩ := bit
    rw [List.length_cons] at hlen
    obtain ⟨hnext, hbit⟩ := received_afterLowPhase p t w h (by omega)
    obtain ⟨hall, hframe⟩ := ih (nextFall t w g) hnext (by omega)
    refine ⟨hall, fun k hk => (hframe k hk).trans ?_⟩
    rw [hbit k]
    rcases Nat.lt_trichotomy n (16 + k) with hlt | heq | hgt
    · have hpos : 16 + k - n = 16 + k - (n + 1) + 1 := by omega
      rw [if_pos (by omega), if_pos hlt.le, hpos, List.getD_cons_succ]
    · rw [if_neg (by omega), if_pos ⟨heq, hk⟩, if_pos heq.le, ← heq, Nat.sub_self,
        List.getD_cons_zero]
    · rw [if_neg (by omega), if_neg (by omega), if_neg (by omega)]

/-- A phase shorter than half the counter's range is read as long as it is. -/
theorem lt_toInt_of_lt_toNat {n : Nat} {x : Tick} (hn : n < x.toNat) (hx : x.toNat < 32768) :
    (n : Int) < x.toInt := by
  rw [BitVec.toInt_eq_toNat_of_lt (by omega)]
  exact_mod_cast hn

/-- A start pulse of long enough phases and the first bit after it, which is no payload bit: a session
of one bit, with an empty frame. -/
theorem received_first_bit {p : Config.Params} (t lo hi w : Tick) {d : Decoder}
    (hstate : d.state = .reset)
    (hlo : (p.startLow.val : Int) < lo.toInt) (hhi : (p.startIdle.val : Int) < hi.toInt) :
    Received 1 (afterLowPhase p (nextFall t lo hi) w (afterLowPhase p t lo d)) := by
  have hpulse : afterLowPhase p t lo d = { d with state := .startRise, tEdge := t + lo } := by
    rw [afterLowPhase, decStep_of_reset false hstate, decStep_of_startFall true rfl, if_pos]
    exact ⟨rfl, by rwa [sdiff_add_left]⟩
  have hsession : decStep p (nextFall t lo hi) false (afterLowPhase p t lo d) =
      clearedAt .recvFall (nextFall t lo hi) := by
    rw [hpulse, decStep_of_startRise false rfl, if_pos]
    exact ⟨rfl, by rwa [nextFall, sdiff_add_left]⟩
  rw [afterLowPhase_of_recvFall w (by rw [hsession]; rfl), hsession]
  exact .setTEdge (received_bitCapture (n := 0) p _ rfl (by decide)) _

/-- The decoder after a start pulse and 32 bits holds the payload bits' classes. -/
theorem received_frame {p : Config.Params} (t lo hi : Tick) {bits : List (Tick × Tick)} {d : Decoder}
    (hstate : d.state = .reset) (hlen : bits.length = 32)
    (hlo : (p.startLow.val : Int) < lo.toInt) (hhi : (p.startIdle.val : Int) < hi.toInt) :
    Received 32 (afterBits p (nextFall t lo hi) bits (afterLowPhase p t lo d)) ∧
      ∀ k, k < payloadCount p.payloadBits →
        (afterBits p (nextFall t lo hi) bits (afterLowPhase p t lo d)).frame.getLsbD k =
          dataBit p (bits.getD (16 + k) (0, 0)).1.toInt := by
  cases bits with
  | nil => cases hlen
  | cons bit rest =>
    obtain ⟨w, g⟩ := bit
    rw [List.length_cons] at hlen
    obtain ⟨hall, hframe⟩ := received_afterBits p (nextFall (nextFall t lo hi) w g) rest
      (received_first_bit t lo hi w hstate hlo hhi) (by omega)
    refine ⟨hall, fun k hk => (hframe k hk).trans ?_⟩
    have hpos : 16 + k = 15 + k + 1 := by omega
    rw [if_pos (by omega), hpos, Nat.add_sub_cancel, List.getD_cons_succ]

/-! ## POLL (R58 to R60) -/

theorem voidCheck_of_near {p : Config.Params} {now : Tick} {l : Latch} (d : Decoder)
    (h : sdiff now l.ts ≤ (p.voidSilence.val : Int)) : voidCheck p now l d = d := by
  rw [voidCheck, silent, (exceeds_eq_false_iff _ _).mpr h]
  rfl

theorem voidCheck_of_silent {p : Config.Params} {now : Tick} {l : Latch} (d : Decoder)
    (h : (p.voidSilence.val : Int) < sdiff now l.ts) : voidCheck p now l d = enterReset d := by
  rw [voidCheck, silent, (exceeds_iff _ _).mpr h]
  rfl

@[simp] theorem voidCheck_tEdge (p : Config.Params) (now : Tick) (l : Latch) (d : Decoder) :
    (voidCheck p now l d).tEdge = d.tEdge := by
  unfold voidCheck
  split <;> rfl

theorem steppedDec_tEdge (s : State) :
    (steppedDec s).tEdge = if s.lat.pend = true then s.lat.ts else s.dec.tEdge := by
  unfold steppedDec
  split <;> rfl

/-- The table of R59, read from frame bit 0 on. -/
theorem lookup_eq (ready : Bool) (f : BitVec 8) :
    lookup ready f =
      if ready = false then .stop
      else if f.getLsbD 0 = true then (if f.getLsbD 1 = true then .right else .down)
      else if f.getLsbD 1 = true then (if f.getLsbD 2 = true then .up else .zero)
      else (if f.getLsbD 2 = true then .left else .ok) := by
  unfold lookup
  cases ready <;> cases f.getLsbD 0 <;> cases f.getLsbD 1 <;> cases f.getLsbD 2 <;> rfl

/-- A state after a POLL under the build `p`: the decoder is `d`, `rc_cmd` is looked up in it, and the
stimuli `ws` are still to come. -/
structure Polled (p : Config.Params) (ws : List Word) (d : Decoder) (t : State) : Prop where
  cfg : t.cfg = p
  stream : t.stream = ws
  dec : t.dec = d
  command : t.rcCmd = lookup t.dec.ready t.dec.frame

/-- A POLL with a pending edge and no void timeout is one decoder step. -/
theorem exec_poll_of_edge {now : Tick} {s : State} (hpend : s.lat.pend = true)
    (hnear : sdiff now s.lat.ts ≤ (s.cfg.voidSilence.val : Int)) :
    ∃ t, exec (.poll now) s = .next t ∧
      Polled s.cfg s.stream (decStep s.cfg s.lat.ts s.lat.lvl s.dec) t := by
  obtain ⟨t, ht, hcfg, hstream, -, -, -, -, -, hdec, hcmd, -, -⟩ := execPoll_next now s
  refine ⟨t, ht, hcfg, hstream, ?_, hcmd⟩
  rw [hdec, voidCheck_of_near _ hnear, steppedDec, if_pos hpend]

/-! ## Running polled edges -/

/-- A step at the word of a well-formed stimulus performs that stimulus. -/
theorem step_of_encode {s : State} {i : Instr} {ws : List Word} (hwf : i.wellFormed = true)
    (hs : s.stream = encode i :: ws) : step s = exec i (s.setStream ws) := by
  have hdec := decodeOfEncodeIsTheStimulus i hwf
  rcases step_cases s with ⟨h, -⟩ | ⟨_, _, j, h, hj, he⟩ | ⟨_, _, _, h, hj, -⟩ <;> cases hs.symm.trans h
  · cases hdec.symm.trans hj
    exact he
  · cases hdec.symm.trans hj

theorem sdiff_self_eq_zero (t : Tick) : sdiff t t = 0 := by
  rw [sdiff_eq_toInt, sub_self]
  rfl

/-- An RC edge and a POLL at its own time: the edge is stepped, since no silence has passed. -/
theorem run_polled_edge (n : Nat) {s : State} {lvl : Bool} {ts : Tick} {ws : List Word}
    (hs : s.stream = encode (.rcEdge lvl ts) :: encode (.poll ts) :: ws) :
    ∃ t, run (n + 2) s = run n t ∧ Polled s.cfg ws (decStep s.cfg ts lvl s.dec) t := by
  have hedge := (step_of_encode rfl hs).trans (exec_rcEdge lvl ts _)
  have hnear : sdiff ts ts ≤ (s.cfg.voidSilence.val : Int) := by
    rw [sdiff_self_eq_zero]
    omega
  obtain ⟨t, ht, hpolled⟩ := exec_poll_of_edge (now := ts)
    (s := (s.setStream ws).setLat { ts := ts, lvl := lvl, pend := true, ovr := overrun s.lat })
    rfl hnear
  refine ⟨t, ?_, hpolled⟩
  rw [run_succ _ hedge]
  exact run_succ _ ((step_of_encode rfl rfl).trans ht)

/-- The stimuli of a low phase take the decoder through both its edges. -/
theorem run_lowPhase (n : Nat) {s : State} {t w : Tick} {ws : List Word}
    (hs : s.stream = (lowPhase t w).map encode ++ ws) :
    ∃ u, run (n + 4) s = run n u ∧ Polled s.cfg ws (afterLowPhase s.cfg t w s.dec) u := by
  obtain ⟨v, hv, hfall⟩ := run_polled_edge (n + 2) hs
  obtain ⟨u, hu, hrise⟩ := run_polled_edge n hfall.stream
  rw [hfall.cfg, hfall.dec] at hrise
  exact ⟨u, hv.trans hu, hrise⟩

/-- The stimuli of data bits after a POLL take the decoder through their low phases. -/
theorem run_bitStimuli (bits : List (Tick × Tick)) {p : Config.Params} {s : State} {d : Decoder}
    {t : Tick} {ws : List Word}
    (h : Polled p ((bitStimuli t bits).map encode ++ ws) d s) :
    ∃ u, run (4 * bits.length) s = .next u ∧ Polled p ws (afterBits p t bits d) u := by
  induction bits generalizing s d t with
  | nil => exact ⟨s, run_zero s, h⟩
  | cons bit rest ih =>
    obtain ⟨w, g⟩ := bit
    have hs := h.stream
    rw [bitStimuli, List.map_append, List.append_assoc] at hs
    obtain ⟨v, hv, hphase⟩ := run_lowPhase (4 * rest.length) hs
    rw [h.cfg, h.dec] at hphase
    obtain ⟨u, hu, hbits⟩ := ih hphase
    exact ⟨u, hv.trans hu, hbits⟩

/-- The stimuli of a frame take the decoder through the start pulse and the bits. -/
theorem run_frameStimuli (s : State) (t lo hi : Tick) (bits : List (Tick × Tick)) (ws : List Word) :
    ∃ u, run (4 * bits.length + 4) (s.facing ((frameStimuli t lo hi bits).map encode ++ ws)) =
        .next u ∧
      Polled s.cfg ws (afterBits s.cfg (nextFall t lo hi) bits (afterLowPhase s.cfg t lo s.dec)) u := by
  obtain ⟨v, hv, hpulse⟩ := run_lowPhase (4 * bits.length)
    (s := s.facing ((frameStimuli t lo hi bits).map encode ++ ws))
    (ws := (bitStimuli (nextFall t lo hi) bits).map encode ++ ws) (by
      rw [← List.append_assoc, ← List.map_append]; rfl)
  obtain ⟨u, hu, hbits⟩ := run_bitStimuli bits hpulse
  exact ⟨u, hv.trans hu, hbits⟩

theorem three_le_payloadCount (k : Config.PayloadBits) : 3 ≤ payloadCount k := by
  cases k <;> decide

/-- Settles O29: the run is the decoder's walk through the start pulse and the bits, which ends with
the frame complete. A pending edge would be overwritten, so that premise is not needed. -/
theorem canonicalFrameIsReceived : Obligations.CanonicalFrameIsReceived := by
  intro s t₀ lo hi bits rest hstate _ hlen hlo hlo' hhi hhi'
  obtain ⟨u, hu, hpolled⟩ := run_frameStimuli s t₀ lo hi bits rest
  obtain ⟨hdone, hframe⟩ := received_frame t₀ lo hi hstate hlen
    (lt_toInt_of_lt_toNat hlo hlo') (lt_toInt_of_lt_toNat hhi hhi')
  rw [← hpolled.dec] at hdone hframe
  rw [hlen] at hu
  have hready := hdone.complete rfl
  refine ⟨u, hu, hpolled.stream, hdone.state, hready, BitVec.eq_of_toNat_eq hdone.count, hframe,
    fun b hb => ?_⟩
  have hbit : ∀ k < 3, u.dec.frame.getLsbD k = b k := fun k hk =>
    (hframe k (hk.trans_le (three_le_payloadCount _))).trans (hb k).symm
  rw [hpolled.command, lookup_eq, hbit 0 (by decide), hbit 1 (by decide), hbit 2 (by decide),
    if_neg (by rw [hready]; decide)]

/-! ## What one POLL does to the decoder -/

/-- Settles O22: the POLL is one decoder step, given by the equation of each start-pulse state. -/
theorem pollStepsTheStartPulse : Obligations.PollStepsTheStartPulse := by
  intro now s hpend hnear
  obtain ⟨t, ht, hpolled⟩ := exec_poll_of_edge hpend hnear
  exact ⟨t, ht, fun h => hpolled.dec.trans (decStep_of_reset _ h),
    fun h => hpolled.dec.trans (decStep_of_startFall _ h),
    fun h => hpolled.dec.trans (decStep_of_startRise _ h)⟩

/-- Settles O23: the rising edge in RecvFall is the bit capture, and the other edges are one equation
each. -/
theorem pollReceivesDataBits : Obligations.PollReceivesDataBits := by
  intro now s hpend hnear hidx
  obtain ⟨t, ht, hpolled⟩ := exec_poll_of_edge hpend hnear
  have hdec := hpolled.dec
  refine ⟨t, ht, by rw [hdec, decStep_tEdge], fun hstate hlvl => ?_, ?_, fun hstate hlvl => ?_⟩
  · rw [hlvl, decStep_true_of_recvFall hstate] at hdec
    have hcap := received_bitCapture s.cfg (sdiff s.lat.ts s.dec.tEdge) rfl (Nat.lt_succ_of_le hidx)
    rw [hdec]
    refine ⟨hcap.count, hcap.state, bitCapture_ready _ _ _, fun k _ => ?_⟩
    exact (congrArg (·.getLsbD k) (bitCapture_frame _ _ _)).trans (capturedFrame_getLsbD _ _ _ k)
  · rintro (⟨hstate, hlvl⟩ | ⟨hstate, hlvl⟩) <;> rw [hdec, hlvl]
    · exact decStep_false_of_recvFall hstate
    · exact decStep_true_of_recvRise hstate
  · rw [hdec, hlvl]
    exact decStep_false_of_recvRise hstate

/-- Settles O24: the same with the equations of the continuation states. -/
theorem pollContinuesASession : Obligations.PollContinuesASession := by
  intro now s hpend hnear
  obtain ⟨t, ht, hpolled⟩ := exec_poll_of_edge hpend hnear
  exact ⟨t, ht, fun h => hpolled.dec.trans (decStep_of_contRise2 _ h),
    fun h => hpolled.dec.trans (decStep_of_contFall1 _ h),
    fun h => hpolled.dec.trans (decStep_of_contRise1 _ h),
    fun h => hpolled.dec.trans (decStep_of_contFall2 _ h)⟩

/-- After a start-like pulse the frame is held exactly for an idle phase in the window (R52). -/
theorem decStep_false_of_contRise1_iff (p : Config.Params) (ts : Tick) {d : Decoder}
    (h : d.state = .contRise1) :
    (decStep p ts false d).state = .contFall2 ↔
      (p.contIdle.val : Int) < sdiff ts d.tEdge ∧ sdiff ts d.tEdge ≤ (p.startIdle.val : Int) := by
  rw [decStep_of_contRise1 false h, if_neg (by decide)]
  split
  case isTrue hnew => exact ⟨nofun, fun hwin => absurd hnew hwin.2.not_gt⟩
  case isFalse hnew =>
    split
    case isTrue hkeep => exact ⟨fun _ => ⟨hkeep, not_lt.mp hnew⟩, fun _ => rfl⟩
    case isFalse hkeep => exact ⟨nofun, fun hwin => absurd hwin.1 hkeep⟩

/-- A frame that is held is kept as it is. -/
theorem decStep_false_of_held {p : Config.Params} {ts : Tick} {d : Decoder}
    (h : d.state = .contRise1) (hheld : (decStep p ts false d).state = .contFall2) :
    decStep p ts false d = { d with state := .contFall2, tEdge := ts } := by
  obtain ⟨hkeep, hold⟩ := (decStep_false_of_contRise1_iff p ts h).mp hheld
  rw [decStep_of_contRise1 false h, if_neg (by decide), if_neg hold.not_gt, if_pos hkeep]

/-- Settles O25: the window is the two thresholds of R52, so it is empty where they are not in order. -/
theorem continuationWindowIsBetweenTheThresholds :
    Obligations.ContinuationWindowIsBetweenTheThresholds := by
  intro now s hpend hlvl hstate hnear
  obtain ⟨t, ht, hpolled⟩ := exec_poll_of_edge hpend hnear
  have hdec := hpolled.dec
  rw [hlvl] at hdec
  have hwindow := decStep_false_of_contRise1_iff s.cfg s.lat.ts hstate
  rw [← hdec] at hwindow
  refine ⟨t, ht, hwindow, fun hheld => ?_, fun hclosed hheld => ?_⟩
  · rw [hdec] at hheld ⊢
    rw [decStep_false_of_held hstate hheld]
    exact ⟨rfl, rfl, rfl⟩
  · obtain ⟨hkeep, hold⟩ := hwindow.mp hheld
    have hle : s.cfg.startIdle.val ≤ s.cfg.contIdle.val := not_lt.mp (of_decide_eq_false hclosed)
    omega

/-- Settles O26: the void check leaves the decoder step's result or resets it, and keeps `t_edge`. -/
theorem voidTimeoutResetsTheDecoder : Obligations.VoidTimeoutResetsTheDecoder := by
  intro now s
  obtain ⟨t, ht, -, -, -, -, -, -, -, hdec, -⟩ := execPoll_next now s
  refine ⟨t, ht, ?_, fun hsilent => ?_, fun hnear => ?_, decStep_tEdge _ _ _ _⟩
  · rw [hdec, voidCheck_tEdge, steppedDec_tEdge]
  · rw [hdec, voidCheck_of_silent _ hsilent]
    exact ⟨rfl, rfl, rfl, rfl⟩
  · exact hdec.trans (voidCheck_of_near _ hnear)

/-- Settles O27: the command is looked up in the decoder that the POLL leaves. -/
theorem commandFollowsTheLookupTable : Obligations.CommandFollowsTheLookupTable := by
  intro now s
  obtain ⟨t, ht, -, -, -, -, -, -, -, -, hcmd, -⟩ := execPoll_next now s
  exact ⟨t, ht, hcmd.trans (lookup_eq _ _)⟩

/-! ## Who writes the decoder registers (R56) -/

/-- A stimulus that is neither a POLL nor RESET leaves the decoder. -/
theorem exec_keeps_dec {i : Instr} (s : State) (hpoll : isPoll i = false) (hreset : i ≠ .reset) :
    ∃ t, exec i s = .next t ∧ t.dec = s.dec := by
  rcases exec_cases i s with ⟨_, _, -, he⟩ | ⟨_, _, _, -, he⟩ | ⟨_, -, he⟩ | ⟨_, -, he⟩ |
    ⟨_, -, he⟩ | ⟨now, rfl, -⟩ | ⟨-, ⟨_, he⟩ | he⟩ | ⟨hi, -⟩
  case inr.inr.inr.inr.inr.inl => cases hpoll
  case inr.inr.inr.inr.inr.inr.inr => exact absurd hi hreset
  all_goals exact ⟨_, he, rfl⟩

/-- Settles O28: no other stimulus writes the decoder, and an illegal word writes `ill` alone. -/
theorem onlyPollAndResetTouchTheDecoder : Obligations.OnlyPollAndResetTouchTheDecoder :=
  ⟨fun _ s => exec_keeps_dec s, fun _ _ s h => ⟨_, step_present_of_error s h, rfl⟩⟩

/-! ## The RC edge (R40) -/

/-- A word of the RC_EDGE row is its level and its tick. -/
theorem decode_of_rcEdge_mask {w : Word} (h : w &&& 0xFFFE0000#32 = 0x10000000#32) :
    decode w = .ok (.rcEdge (lvlField w) (lowField w)) := by
  have hrow : Row.matches ⟨"RC_EDGE", 0x10000000, 0xFFFE0000, 7⟩ w = true :=
    (Row.matches_iff _ w).mpr ⟨h, Nat.le_of_lt_succ (Nat.mod_lt _ (by decide))⟩
  obtain ⟨hw, -⟩ := eq_pack_of_matches (op := 1) (sel := 0) (k := 17) le_rfl hrow
  exact (congrArg decode hw).trans (decode_pack 1 0 _ _)

theorem overrun_eq_ite (l : Latch) : overrun l = if l.pend = true then true else l.ovr := by
  cases h : l.pend <;> simp [overrun, h]

/-- Settles O18: the row's word by its fields, and the latch as the stimulus leaves it. -/
theorem rcEdgeLatchesTheEdge : Obligations.RcEdgeLatchesTheEdge := by
  refine ⟨fun w => decode_of_rcEdge_mask, fun lvl ts s => ?_⟩
  rw [exec_rcEdge, overrun_eq_ite]
  rfl

end Sys2Proof.Machine
end

section
/-!
PROOFS for `spec/41_output_scheduler.md`: the two compare-match events, who moves the outputs, the
distances between on-time matches, and the servo duty over a whole stream.
-/

namespace Sys2Proof.Machine

/-! ## The rows of compare matches (R66, R67) -/

/-- A word of a row of a class without a level decodes by the row's class and selector and its own
low half. -/
theorem decode_of_unleveled_mask (op sel : BitVec 4) {w : Word}
    (h : w &&& 0xFFFF0000#32 = pack op sel false 0) :
    decode w = decodeFields op sel false (lowField w) := by
  have hrow : Row.matches ⟨"", pack op sel false 0, 0xFFFF0000, 7⟩ w = true :=
    (Row.matches_iff _ w).mpr ⟨h, Nat.le_of_lt_succ (Nat.mod_lt _ (by decide))⟩
  obtain ⟨hw, hlow, -⟩ := eq_pack_of_matches (k := 16) (by decide) hrow
  obtain ⟨hlvl, -⟩ := level_eq_false_of_lt le_rfl hlow
  rw [hlvl] at hw
  exact (congrArg decode hw).trans (decode_pack op sel false (lowField w))

/-! ## The motor event (R66) -/

theorem exec_cmpMatchMotor (tick : Tick) (s : State) :
    exec (.cmpMatchMotor tick) s = .next (s.setMot (motorEvent s.cfg s.arb.motorCmd s.mot)) := rfl

section MotorEvent

variable (p : Config.Params) (cmd : MotorCmd) (m : MotorPwm)

theorem motorEvent_eq_ite :
    motorEvent p cmd m =
      if m.high = true then
        { cmp := m.cmp + p.motorLowTicks.ticks, high := false, en := false }
      else
        { cmp := m.cmp + p.motorHighTicks.ticks, high := true, en := decide (cmd ≠ .mStop) } := by
  cases h : m.high <;> simp [motorEvent, motorEnable, tickAdd, h]

/-- The compare distance is the length of the phase that the event enters. -/
theorem motorEvent_cmp_sub :
    (motorEvent p cmd m).cmp - m.cmp =
      if (motorEvent p cmd m).high = true then p.motorHighTicks.ticks
      else p.motorLowTicks.ticks := by
  rw [motorEvent_eq_ite]
  cases m.high <;> exact add_sub_cancel_left _ _

/-- Two events in a row pass through both phases, in either order. -/
theorem motorEvent_twice_cmp (cmd' : MotorCmd) :
    (motorEvent p cmd' (motorEvent p cmd m)).cmp =
      m.cmp + (p.motorHighTicks.ticks + p.motorLowTicks.ticks) := by
  rw [motorEvent_eq_ite p cmd', motorEvent_eq_ite p cmd]
  cases m.high
  · exact add_assoc _ _ _
  · exact (add_assoc _ _ _).trans (congrArg _ (add_comm _ _))

end MotorEvent

/-- Settles O35: the row's word by its low half, and the event by the phase it leaves. -/
theorem motorEventTogglesThePhase : Obligations.MotorEventTogglesThePhase := by
  refine ⟨fun w => decode_of_unleveled_mask 3 0, fun tick s => ?_⟩
  rw [exec_cmpMatchMotor, motorEvent_eq_ite]
  rfl

/-- Settles O39: the distance to the entered phase's end, and the sum over both phases. -/
theorem motorPeriodIsHighPlusLow : Obligations.MotorPeriodIsHighPlusLow := by
  intro a b s
  have hdist := motorEvent_cmp_sub s.cfg s.arb.motorCmd s.mot
  exact ⟨_, _, exec_cmpMatchMotor a s, exec_cmpMatchMotor b _,
    fun hhigh => hdist.trans (if_pos hhigh),
    fun hlow => hdist.trans (if_neg (ne_true_of_eq_false hlow)),
    Bool.not_not _, motorEvent_twice_cmp _ _ _ _⟩

/-! ## The servo event (R67) -/

theorem exec_cmpMatchServo (tick : Tick) (s : State) :
    exec (.cmpMatchServo tick) s = .next (s.setSrv (servoEvent s.cfg s.inp s.srv)) := rfl

/-- Settles O36: the row's word by its low half, and the event's registers, of which only the counter
needs an argument. -/
theorem servoEventTestsThenCounts : Obligations.ServoEventTestsThenCounts :=
  ⟨fun _ => decode_of_unleveled_mask 3 1,
    fun tick s => ⟨servoEvent s.cfg s.inp s.srv, exec_cmpMatchServo tick s, rfl, rfl, rfl,
      nextSubCnt_toNat s.cfg s.srv.subCnt⟩⟩

/-! ## Who moves the outputs (R68) -/

section Frame

variable {i : Instr} {s t : State} (h : exec i s = .next t) (hreset : i ≠ .reset)
include h hreset

/-- A stimulus that is neither `CMP_MATCH.MOTOR` nor RESET leaves channel 0. -/
theorem exec_keeps_mot (hmotor : ∀ tick, i ≠ .cmpMatchMotor tick) : t.mot = s.mot := by
  rcases exec_cases i s with ⟨_, _, -, he⟩ | ⟨_, _, _, -, he⟩ | ⟨tick, hi, -⟩ | ⟨_, -, he⟩ |
    ⟨_, -, he⟩ | ⟨now, -, he⟩ | ⟨-, ⟨_, he⟩ | he⟩ | ⟨hi, -⟩
  case inr.inr.inl => exact absurd hi (hmotor tick)
  case inr.inr.inr.inr.inr.inl =>
    obtain ⟨u, hu, -, -, -, hmot, -⟩ := execPoll_next now s
    cases h.symm.trans (he.trans hu)
    exact hmot
  case inr.inr.inr.inr.inr.inr.inr => exact absurd hi hreset
  all_goals cases h.symm.trans he; rfl

/-- A stimulus that is neither `CMP_MATCH.SERVO` nor RESET leaves channel 1. -/
theorem exec_keeps_srv (hservo : ∀ tick, i ≠ .cmpMatchServo tick) : t.srv = s.srv := by
  rcases exec_cases i s with ⟨_, _, -, he⟩ | ⟨_, _, _, -, he⟩ | ⟨_, -, he⟩ | ⟨tick, hi, -⟩ |
    ⟨_, -, he⟩ | ⟨now, -, he⟩ | ⟨-, ⟨_, he⟩ | he⟩ | ⟨hi, -⟩
  case inr.inr.inr.inl => exact absurd hi (hservo tick)
  case inr.inr.inr.inr.inr.inl =>
    obtain ⟨u, hu, -, -, -, -, hsrv, -⟩ := execPoll_next now s
    cases h.symm.trans (he.trans hu)
    exact hsrv
  case inr.inr.inr.inr.inr.inr.inr => exact absurd hi hreset
  all_goals cases h.symm.trans he; rfl

end Frame

/-- Settles O38: every other stimulus leaves the channel's registers, and an illegal word writes `ill`
alone. -/
theorem outputsMoveOnlyAtCompareMatches : Obligations.OutputsMoveOnlyAtCompareMatches := by
  refine ⟨fun i s hreset => ?_, fun w e s h => ⟨_, step_present_of_error s h, rfl, rfl, rfl⟩⟩
  obtain ⟨t, ht, -, -⟩ := exec_keeps_cfg_stream i s
  refine ⟨t, ht, fun hmotor => ?_, fun hservo => ?_⟩
  · rw [exec_keeps_mot ht hreset hmotor]
  · rw [exec_keeps_srv ht hreset hservo]
    exact ⟨rfl, rfl⟩

/-! ## The trigger pulse of a fresh sensor (R75, R76) -/

section Fire

variable (p : Config.Params) (now : Tick) {r : Ranging}

theorem rangingStep_of_fresh (hout : (r.rs.get r.cur).phase = .probeOut)
    (hsent : (r.rs.get r.cur).sent = false) :
    rangingStep p now r = fire p now r.cur { r with obstacle := false } := by
  simp [rangingStep, rangingAction, hout, hsent]

theorem trigOut_fire (hout : (r.rs.get r.cur).phase = .probeOut) :
    trigOut (fire p now r.cur r) r.cur = true := by
  simp [trigOut, trigOe, fire, hout]

theorem trigTaken_fire (hout : (r.rs.get r.cur).phase = .probeOut) :
    trigTaken (fire p now r.cur r) = true := by
  simp [trigTaken, fire, hout]

end Fire

/-- A trigger event that is not spurious makes the current sensor's line an input. -/
theorem trigOut_trigEvent {r : Ranging} (h : trigTaken r = true) :
    trigOut (trigEvent r) r.cur = false := by
  simp [trigOut, trigOe, trigEvent, h, beginListen]

/-! ## On-time stimuli (R69, R310) -/

section OnTime

variable {c tick : Tick} {s : State}

theorem onTime_poll_iff : onTime c s (.poll tick) = true ↔ tick = c := beq_iff_eq

theorem onTime_cmpMatchMotor_iff : onTime c s (.cmpMatchMotor tick) = true ↔ c = s.mot.cmp :=
  beq_iff_eq

theorem onTime_cmpMatchServo_iff : onTime c s (.cmpMatchServo tick) = true ↔ c = s.srv.cmp :=
  beq_iff_eq

theorem onTime_cmpMatchTrig_iff :
    onTime c s (.cmpMatchTrig tick) = true ↔ s.rng.armed = true ∧ c = s.rng.cmp := by
  simp [onTime]

end OnTime

/-- An on-time POLL at a fresh sensor raises its line, and the next trigger event drops it; if that
one is on time too, the pulse lasts `TrigWidthTicks`. -/
theorem exec_trigger_pulse {c₁ a : Tick} (c₂ b : Tick) {s : State}
    (hout : (s.rng.rs.get s.rng.cur).phase = .probeOut)
    (hsent : (s.rng.rs.get s.rng.cur).sent = false) (hpoll : onTime c₁ s (.poll a) = true) :
    ∃ t u, exec (.poll a) s = .next t ∧ exec (.cmpMatchTrig b) t = .next u ∧
      trigOut t.rng s.rng.cur = true ∧ trigOut u.rng s.rng.cur = false ∧
      (onTime c₂ t (.cmpMatchTrig b) = true → c₂ - c₁ = s.cfg.trigWidthTicks.ticks) := by
  obtain rfl := onTime_poll_iff.mp hpoll
  obtain ⟨t, ht, -, -, -, -, -, -, -, -, -, -, hrng⟩ := execPoll_next a s
  rw [rangingStep_of_fresh s.cfg a hout hsent] at hrng
  refine ⟨t, t.setRng (trigEvent t.rng), ht, rfl, ?_, ?_, fun htrig => ?_⟩
  · rw [hrng]
    exact trigOut_fire _ _ hout
  · rw [State.setRng_rng, hrng]
    exact trigOut_trigEvent (trigTaken_fire _ _ hout)
  · obtain ⟨-, rfl⟩ := onTime_cmpMatchTrig_iff.mp htrig
    rw [hrng]
    exact add_sub_cancel_left _ _

/-- Settles O40: on-time matches are one compare distance apart, and each event sets that distance. -/
theorem onTimeMatchesGiveTheProgrammedWidths :
    Obligations.OnTimeMatchesGiveTheProgrammedWidths := by
  intro c₁ c₂ a b s
  refine ⟨fun h₁ => ⟨_, exec_cmpMatchMotor a s, fun h₂ => ?_⟩,
    fun h₁ => ⟨_, exec_cmpMatchServo a s, fun h₂ => ?_⟩,
    fun hout hsent hpoll => exec_trigger_pulse c₂ b hout hsent hpoll⟩
  · rw [onTime_cmpMatchMotor_iff.mp h₁, onTime_cmpMatchMotor_iff.mp h₂]
    exact motorEvent_cmp_sub _ _ _
  · rw [onTime_cmpMatchServo_iff.mp h₁, onTime_cmpMatchServo_iff.mp h₂]
    exact add_sub_cancel_left _ _

/-! ## Runs over a whole stream -/

/-- What holds of the empty stream's state and is carried over each word holds after the run, of all
the words that were read. -/
theorem run_stream_induction {P : List Word → State → Prop} {good : Word → Prop}
    (hstep : ∀ {read w rest t}, good w → t.stream = w :: rest → P read t →
      ∃ u, step t = .next u ∧ u.stream = rest ∧ P (read ++ [w]) u)
    {ws read : List Word} {s : State} (hgood : ∀ w ∈ ws, good w) (hs : s.stream = ws)
    (h : P read s) :
    ∃ t, run ws.length s = .next t ∧ t.stream = [] ∧ P (read ++ ws) t := by
  induction ws generalizing read s with
  | nil => exact ⟨s, run_zero s, hs, by rwa [List.append_nil]⟩
  | cons w rest ih =>
    obtain ⟨hw, hrest⟩ := List.forall_mem_cons.mp hgood
    obtain ⟨u, hu, hstream, hread⟩ := hstep hw hs h
    obtain ⟨t, ht, hend, hall⟩ := ih hrest hstream hread
    rw [List.append_assoc] at hall
    exact ⟨t, (run_succ _ hu).trans ht, hend, hall⟩

/-! ## What one word does to the servo channels -/

theorem isResetWord_eq_false_iff (w : Word) : isResetWord w = false ↔ decode w ≠ .ok .reset := by
  unfold isResetWord
  cases decode w <;> simp [Except.toOption]

theorem isServoWord_iff (w : Word) :
    isServoWord w = true ↔ ∃ tick, decode w = .ok (.cmpMatchServo tick) := by
  unfold isServoWord
  split <;> simp_all

theorem isWidth0Word_iff (w : Word) :
    isWidth0Word w = true ↔ ∃ val, decode w = .ok (.setInServoW0 val) := by
  unfold isWidth0Word
  split <;> simp_all

theorem isWidth1Word_iff (w : Word) :
    isWidth1Word w = true ↔ ∃ val, decode w = .ok (.setInServoW1 val) := by
  unfold isWidth1Word
  split <;> simp_all

/-- A port write keeps what the port's register does not hold. -/
theorem writePort_keeps {α β : Type} (f : Inputs → β) (v : Option α) {put : α → Inputs} {s : State}
    (h : ∀ a, f (put a) = f s.inp) : f (writePort v put s).inp = f s.inp := by
  obtain ⟨a, -, he⟩ | ⟨-, he⟩ := writePort_cases v put s <;> rw [he]
  · exact h a
  · rfl

/-- A stimulus other than RESET writes a servo width only at the width's own port. -/
theorem exec_keeps_widths {i : Instr} {s t : State} (h : exec i s = .next t) (hreset : i ≠ .reset) :
    ((∀ val, i ≠ .setInServoW0 val) → t.inp.servoW0 = s.inp.servoW0) ∧
      ((∀ val, i ≠ .setInServoW1 val) → t.inp.servoW1 = s.inp.servoW1) := by
  cases hset : isSetIn i with
  | false =>
    obtain ⟨u, hu, hinp⟩ := exec_keeps_inp s hset hreset
    cases h.symm.trans hu
    rw [hinp]
    exact ⟨fun _ => rfl, fun _ => rfl⟩
  | true =>
    cases i with
    | setInServoW0 val =>
      cases h
      exact ⟨fun hne => absurd rfl (hne val), fun _ => rfl⟩
    | setInServoW1 val =>
      cases h
      exact ⟨fun _ => rfl, fun hne => absurd rfl (hne val)⟩
    | setInModeSel | setInManTrig | setInAutoPull | setInTarget | setInEvadeCmd =>
      cases h
      exact ⟨fun _ => writePort_keeps (·.servoW0) _ fun _ => rfl,
        fun _ => writePort_keeps (·.servoW1) _ fun _ => rfl⟩
    | _ => cases hset

/-- What the word `w` does to the servo channels on the way from `s` to `t`. -/
structure ServoEffect (w : Word) (s t : State) : Prop where
  cfg : t.cfg = s.cfg
  srv : t.srv = if isServoWord w = true then servoEvent s.cfg s.inp s.srv else s.srv
  width0 : isWidth0Word w = false → t.inp.servoW0 = s.inp.servoW0
  width1 : isWidth1Word w = false → t.inp.servoW1 = s.inp.servoW1

theorem ServoEffect.out0 {w : Word} {s t : State} (h : ServoEffect w s t) :
    t.srv.out0 =
      if isServoWord w = true then servoLevel s.srv.subCnt s.inp.servoW0 else s.srv.out0 := by
  rw [h.srv]
  split <;> rfl

theorem ServoEffect.out1 {w : Word} {s t : State} (h : ServoEffect w s t) :
    t.srv.out1 =
      if isServoWord w = true then servoLevel s.srv.subCnt s.inp.servoW1 else s.srv.out1 := by
  rw [h.srv]
  split <;> rfl

theorem servoEffect_of_exec {w : Word} {i : Instr} {s t : State} (hw : decode w = .ok i)
    (hreset : i ≠ .reset) (h : exec i s = .next t) : ServoEffect w s t := by
  obtain ⟨hwidth0, hwidth1⟩ := exec_keeps_widths h hreset
  refine ⟨?_, ?_, fun hne => hwidth0 fun val hi => ?_, fun hne => hwidth1 fun val hi => ?_⟩
  · obtain ⟨u, hu, hcfg, -⟩ := exec_keeps_cfg_stream i s
    cases h.symm.trans hu
    exact hcfg
  · by_cases hservo : ∃ tick, i = .cmpMatchServo tick
    · obtain ⟨tick, rfl⟩ := hservo
      rw [if_pos ((isServoWord_iff w).mpr ⟨tick, hw⟩)]
      cases h
      rfl
    · have hother : ¬ isServoWord w = true := fun hword => by
        obtain ⟨tick, hd⟩ := (isServoWord_iff w).mp hword
        exact hservo ⟨tick, Except.ok.inj (hw.symm.trans hd)⟩
      rw [if_neg hother]
      exact exec_keeps_srv h hreset fun tick hi => hservo ⟨tick, hi⟩
  · exact ne_true_of_eq_false hne ((isWidth0Word_iff w).mpr ⟨val, hi ▸ hw⟩)
  · exact ne_true_of_eq_false hne ((isWidth1Word_iff w).mpr ⟨val, hi ▸ hw⟩)

theorem servoEffect_of_error {w : Word} {e : DecodeError} (hw : decode w = .error e) (s : State) :
    ServoEffect w s (raiseIllegal s) where
  cfg := rfl
  srv := by
    rw [if_neg fun hword => by
      obtain ⟨_, hd⟩ := (isServoWord_iff w).mp hword
      cases hw.symm.trans hd]
    rfl
  width0 _ := rfl
  width1 _ := rfl

/-- A step takes one word from the stream, with its effect on the servo channels. -/
theorem step_servoEffect {s : State} {w : Word} {rest : List Word} (hs : s.stream = w :: rest)
    (hreset : isResetWord w = false) :
    ∃ t, step s = .next t ∧ t.stream = rest ∧ ServoEffect w s t := by
  rcases step_cases s with ⟨h, -⟩ | ⟨_, _, i, h, hd, he⟩ | ⟨_, _, e, h, hd, he⟩ <;>
    cases hs.symm.trans h
  · have hi : i ≠ .reset := fun hi => (isResetWord_eq_false_iff w).mp hreset (hi ▸ hd)
    obtain ⟨t, ht, -, hstream⟩ := exec_keeps_cfg_stream i (s.setStream rest)
    exact ⟨t, he.trans ht, hstream, { servoEffect_of_exec hd hi ht with }⟩
  · exact ⟨_, he, rfl, { servoEffect_of_error hd (s.setStream rest) with }⟩

/-! ## The servo duty (R69) -/

/-- The sub-cycle counter counts the matches modulo `TotalWidth`. -/
theorem nextSubCnt_toNat_of_mod (p : Config.Params) {c : BitVec 16} {n : Nat}
    (h : c.toNat = n % p.totalWidth.ticks.toNat) :
    (nextSubCnt p c).toNat = (n + 1) % p.totalWidth.ticks.toNat := by
  have hlt : c.toNat < p.totalWidth.ticks.toNat := h ▸ Nat.mod_lt n (duration_pos p.totalWidth)
  rw [nextSubCnt_toNat p c hlt, ← Nat.mod_add_mod, ← h]
  split
  case isTrue hlast => rw [hlast, Nat.mod_self]
  case isFalse hmore => rw [Nat.mod_eq_of_lt (by omega)]

/-- The number of `CMP_MATCH.SERVO` words. -/
def servoCount (ws : List Word) : Nat := (ws.filter isServoWord).length

@[simp] theorem servoCount_nil : servoCount [] = 0 := rfl

theorem servoCount_append_singleton (ws : List Word) (w : Word) :
    servoCount (ws ++ [w]) = if isServoWord w = true then servoCount ws + 1 else servoCount ws := by
  unfold servoCount
  split <;> simp_all

/-- A channel of width `W`, still in its register `x`, after `n` matches of a cycle of `T`: its output
shows the last match. -/
structure ChannelDuty (T : Nat) (W : BitVec 16) (n : Nat) (x : BitVec 16) (out : Bool) : Prop where
  width : x = W
  level : 0 < n → out = decide ((n - 1) % T < W.toNat)

/-- A word that does not write the width keeps the duty: a match sets the level from the counter,
which the earlier matches have brought to `n mod T`, and any other word leaves it. -/
theorem ChannelDuty.next {T n : Nat} {W x y c : BitVec 16} {out : Bool} (h : ChannelDuty T W n x out)
    (hc : c.toNat = n % T) (hwidth : y = x) (w : Word) :
    ChannelDuty T W (if isServoWord w = true then n + 1 else n) y
      (if isServoWord w = true then servoLevel c x else out) := by
  subst hwidth
  split
  · exact ⟨h.width, fun _ => by rw [servoLevel, h.width, hc, Nat.add_sub_cancel]⟩
  · exact h

/-- The servo channels in `t`, after the words `read` from `s` on: the counter, and the duty of each
channel whose width was not written. -/
structure ServoCycle (s : State) (read : List Word) (t : State) : Prop where
  cfg : t.cfg = s.cfg
  count : t.srv.subCnt.toNat = servoCount read % s.cfg.totalWidth.ticks.toNat
  duty0 : (∀ w ∈ read, isWidth0Word w = false) →
    ChannelDuty s.cfg.totalWidth.ticks.toNat s.inp.servoW0 (servoCount read) t.inp.servoW0 t.srv.out0
  duty1 : (∀ w ∈ read, isWidth1Word w = false) →
    ChannelDuty s.cfg.totalWidth.ticks.toNat s.inp.servoW1 (servoCount read) t.inp.servoW1 t.srv.out1

theorem servoCycle_nil {s : State} (h : s.srv.subCnt = 0) (ws : List Word) :
    ServoCycle s [] (s.facing ws) where
  cfg := rfl
  count := by
    rw [servoCount_nil, Nat.zero_mod]
    exact congrArg BitVec.toNat h
  duty0 _ := ⟨rfl, fun hpos => absurd hpos (Nat.lt_irrefl 0)⟩
  duty1 _ := ⟨rfl, fun hpos => absurd hpos (Nat.lt_irrefl 0)⟩

/-- Every word keeps the cycle: a servo match counts, and each channel's duty goes on. -/
theorem ServoCycle.next {s t u : State} {read : List Word} {w : Word} (h : ServoCycle s read t)
    (heff : ServoEffect w t u) : ServoCycle s (read ++ [w]) u where
  cfg := heff.cfg.trans h.cfg
  count := by
    rw [servoCount_append_singleton, heff.srv, h.cfg]
    split
    · exact nextSubCnt_toNat_of_mod s.cfg h.count
    · exact h.count
  duty0 hall := by
    obtain ⟨hread, hw⟩ := List.forall_mem_append.mp hall
    rw [servoCount_append_singleton, heff.out0]
    exact (h.duty0 hread).next h.count (heff.width0 (hw w List.mem_cons_self)) w
  duty1 hall := by
    obtain ⟨hread, hw⟩ := List.forall_mem_append.mp hall
    rw [servoCount_append_singleton, heff.out1]
    exact (h.duty1 hread).next h.count (heff.width1 (hw w List.mem_cons_self)) w

theorem step_servoCycle {s t : State} {read rest : List Word} {w : Word}
    (hreset : isResetWord w = false) (hs : t.stream = w :: rest) (h : ServoCycle s read t) :
    ∃ u, step t = .next u ∧ u.stream = rest ∧ ServoCycle s (read ++ [w]) u := by
  obtain ⟨u, hu, hrest, heff⟩ := step_servoEffect hs hreset
  exact ⟨u, hu, hrest, h.next heff⟩

/-- Settles O41: the cycle holds before the first word, and every word but RESET carries it on. -/
theorem servoHighForFirstWOfEveryT : Obligations.ServoHighForFirstWOfEveryT := by
  intro s ws hzero hnoReset
  obtain ⟨t, ht, hend, hcycle⟩ :=
    run_stream_induction step_servoCycle hnoReset rfl (servoCycle_nil hzero ws)
  rw [List.nil_append] at hcycle
  exact ⟨t, ht, hend, hcycle.count, fun hpos hkept => (hcycle.duty0 hkept).level hpos,
    fun hpos hkept => (hcycle.duty1 hkept).level hpos⟩

end Sys2Proof.Machine
end

section
/-!
PROOFS for `spec/42_ranging.md`: the rows of the echo edges and of the trigger timer, one POLL in
each situation of a probe, what moves between POLLs, a whole answered probe, and the echo that never
comes.
-/

namespace Sys2Proof.Machine

/-! ## The echo edges (R73) -/

/-- A word of a row of a class with a level decodes by the row's class and selector, its own level
and its own low half. -/
theorem decode_of_leveled_mask (op sel : BitVec 4) {w : Word}
    (h : w &&& 0xFFFE0000#32 = pack op sel false 0) :
    decode w = decodeFields op sel (lvlField w) (lowField w) := by
  have hrow : Row.matches ⟨"", pack op sel false 0, 0xFFFE0000, 7⟩ w = true :=
    (Row.matches_iff _ w).mpr ⟨h, Nat.le_of_lt_succ (Nat.mod_lt _ (by decide))⟩
  obtain ⟨hw, -⟩ := eq_pack_of_matches (k := 17) le_rfl hrow
  exact (congrArg decode hw).trans (decode_pack op sel _ _)

theorem exec_echoInstr (x : Sensor) (lvl : Bool) (ts : Tick) (s : State) :
    exec (echoInstr x lvl ts) s = .next (s.setRng (echoEdge x lvl ts s.rng)) := by
  cases x <;> rfl

section EchoEdge

variable (x : Sensor) (lvl : Bool) (ts : Tick) {r : Ranging}

theorem echoEdge_of_taken (h : echoTaken r x = true) :
    echoEdge x lvl ts r = { r with rs := r.rs.set x (captureEcho lvl ts (r.rs.get x)) } :=
  if_pos h

theorem echoEdge_of_ignored (h : ¬ echoTaken r x = true) : echoEdge x lvl ts r = r := if_neg h

/-- The branches of R73, with the falling edge before any rising one among the ignored edges. -/
theorem echoEdge_eq_ite :
    echoEdge x lvl ts r =
      if r.cur = x ∧ (r.rs.get x).phase = .probeIn ∧ (r.rs.get x).feedback = false then
        (if lvl = true then
          { r with rs := r.rs.set x { r.rs.get x with riseTs := ts, riseSeen := true } }
        else if (r.rs.get x).riseSeen = true then
          { r with rs := r.rs.set x { r.rs.get x with fallTs := ts, feedback := true } }
        else r)
      else r := by
  have htaken := echoTaken_iff r x
  rw [eq_comm (a := x)] at htaken
  by_cases h : echoTaken r x = true
  · rw [echoEdge_of_taken x lvl ts h, if_pos (htaken.mp h), captureEcho]
    split
    · rfl
    · split
      · rfl
      · rw [PerSensor.set_get_self]
  · rw [echoEdge_of_ignored x lvl ts h, if_neg (mt htaken.mpr h)]

end EchoEdge

/-- Settles O42: each row's word by its fields, and the one rule of the three sensors. -/
theorem echoEdgeIsCapturedOrIgnored : Obligations.EchoEdgeIsCapturedOrIgnored :=
  ⟨fun _ => ⟨decode_of_leveled_mask 2 0, decode_of_leveled_mask 2 1, decode_of_leveled_mask 2 2⟩,
    fun lvl ts s =>
      have hedge := fun x => (exec_echoInstr x lvl ts s).trans
        (congrArg (fun r => Host.Outcome.next (s.setRng r)) (echoEdge_eq_ite x lvl ts))
      ⟨hedge .left, hedge .center, hedge .right⟩⟩

/-! ## The trigger timer (R76) -/

theorem exec_cmpMatchTrig (tick : Tick) (s : State) :
    exec (.cmpMatchTrig tick) s = .next (s.setRng (trigEvent s.rng)) := rfl

section TrigEvent

variable {r : Ranging}

theorem trigEvent_of_taken (h : trigTaken r = true) :
    trigEvent r = { r with rs := r.rs.set r.cur (beginListen (r.rs.get r.cur)), armed := false } :=
  if_pos h

theorem trigEvent_of_spurious (h : ¬ trigTaken r = true) : trigEvent r = r := if_neg h

/-- The current sensor's line is an input after a trigger event that is not spurious. -/
theorem trigOe_trigEvent (h : trigTaken r = true) : trigOe (trigEvent r) r.cur = false := by
  simp [trigEvent_of_taken h, trigOe, beginListen]

end TrigEvent

/-- Settles O43: the row's word by its low half, and the event by whether it is spurious. -/
theorem triggerTimerEndsThePulse : Obligations.TriggerTimerEndsThePulse := by
  refine ⟨fun _ => decode_of_unleveled_mask 3 2, fun tick s => ⟨?_, fun harmed hout hsent =>
    ⟨_, exec_cmpMatchTrig tick s,
      trigOe_trigEvent ((trigTaken_iff s.rng).mpr ⟨harmed, hout, hsent⟩)⟩⟩⟩
  rw [exec_cmpMatchTrig]
  by_cases h : trigTaken s.rng = true
  · rw [trigEvent_of_taken h, if_pos ((trigTaken_iff s.rng).mp h)]
    rfl
  · rw [trigEvent_of_spurious h, if_neg (mt (trigTaken_iff s.rng).mpr h)]
    rfl

/-! ## One POLL, by the situation of the current probe (R71, R74) -/

theorem exec_poll_rng (now : Tick) (s : State) :
    ∃ t, exec (.poll now) s = .next t ∧ t.cfg = s.cfg ∧ t.stream = s.stream ∧
      t.rng = rangingStep s.cfg now s.rng := by
  obtain ⟨t, ht, hcfg, hstream, -, -, -, -, -, -, -, -, hrng⟩ := execPoll_next now s
  exact ⟨t, ht, hcfg, hstream, hrng⟩

section RangingStep

variable (p : Config.Params) (now : Tick) {r : Ranging}

theorem rangingStep_of_sent (hout : (r.rs.get r.cur).phase = .probeOut)
    (hsent : (r.rs.get r.cur).sent = true) :
    rangingStep p now r = { r with obstacle := false } := by
  simp [rangingStep, rangingAction, hout, hsent]

theorem rangingStep_of_listening (hin : (r.rs.get r.cur).phase = .probeIn)
    (hfin : (r.rs.get r.cur).finished = false) (hpair : (r.rs.get r.cur).feedback = false) :
    rangingStep p now r = { r with obstacle := false } := by
  simp [rangingStep, rangingAction, hin, hfin, hpair]

theorem rangingStep_of_pair (hin : (r.rs.get r.cur).phase = .probeIn)
    (hfin : (r.rs.get r.cur).finished = false) (hpair : (r.rs.get r.cur).feedback = true) :
    rangingStep p now r = classify p r.cur { r with obstacle := false } := by
  simp [rangingStep, rangingAction, hin, hfin, hpair]

theorem rangingStep_of_finished (hin : (r.rs.get r.cur).phase = .probeIn)
    (hfin : (r.rs.get r.cur).finished = true) :
    rangingStep p now r = advance r.cur { r with obstacle := false } := by
  simp [rangingStep, rangingAction, hin, hfin]

end RangingStep

theorem echoHit_iff (p : Config.Params) (x : SensorRec) :
    echoHit p x = true ↔ (p.collision.val : Int) < sdiff x.fallTs x.riseTs := exceeds_iff _ _

/-- The two outcomes of a classification, by the echo width (R77). -/
theorem classify_eq_ite (p : Config.Params) (x : Sensor) (r : Ranging) :
    classify p x r =
      if (p.collision.val : Int) < sdiff (r.rs.get x).fallTs (r.rs.get x).riseTs then
        { r with
          rs := r.rs.set x { r.rs.get x with finished := true }
          coll := r.coll.set x true
          obstacle := true
          obsSensor := x
          obsDir := turnDir p x }
      else
        { r with
          rs := r.rs.set x { r.rs.get x with finished := true }
          coll := r.coll.set x false } := by
  simp only [← echoHit_iff]
  cases hhit : echoHit p (r.rs.get x) <;> simp [classify, hhit]

/-- Settles O44: the POLL fires, so the next trigger event is not spurious. -/
theorem pollFiresAFreshSensor : Obligations.PollFiresAFreshSensor := by
  intro now tick s hout hsent
  obtain ⟨t, ht, -, -, hrng⟩ := exec_poll_rng now s
  rw [rangingStep_of_fresh s.cfg now hout hsent] at hrng
  refine ⟨t, _, ht, hrng, ?_, exec_cmpMatchTrig tick t, ?_⟩
  · rw [hrng]
    exact trigOut_fire _ _ hout
  · rw [State.setRng_rng, hrng]
    exact trigOut_trigEvent (trigTaken_fire _ _ hout)

/-- Settles O45. -/
theorem pollWaitsForTriggerOrEcho : Obligations.PollWaitsForTriggerOrEcho := by
  intro now s hwait
  obtain ⟨t, ht, -, -, hrng⟩ := exec_poll_rng now s
  refine ⟨t, ht, hrng.trans ?_⟩
  obtain ⟨hout, hsent⟩ | ⟨hin, hpair, hfin⟩ := hwait
  · exact rangingStep_of_sent _ _ hout hsent
  · exact rangingStep_of_listening _ _ hin hfin hpair

/-- Settles O46: the POLL classifies with the obstacle line clear, so it is set by a hit alone. -/
theorem pollClassifiesTheEcho : Obligations.PollClassifiesTheEcho := by
  intro now s hin hfin hpair
  obtain ⟨t, ht, -, -, hrng⟩ := exec_poll_rng now s
  rw [rangingStep_of_pair _ _ hin hfin hpair] at hrng
  exact ⟨t, ht, hrng.trans (classify_eq_ite _ _ _)⟩

/-- Settles O47. -/
theorem pollAdvancesToTheNextSensor : Obligations.PollAdvancesToTheNextSensor := by
  intro now s hin hfin
  obtain ⟨t, ht, -, -, hrng⟩ := exec_poll_rng now s
  rw [rangingStep_of_finished _ _ hin hfin] at hrng
  refine ⟨t, ht, ?_, ?_⟩ <;> rw [hrng] <;> rfl

/-! ## What moves the ranging registers (R72, R81) -/

/-- A stimulus other than RESET leaves the ranging registers, or is an echo edge, a trigger event or
a POLL. -/
theorem exec_rng_cases {i : Instr} {s t : State} (h : exec i s = .next t) (hreset : i ≠ .reset) :
    t.rng = s.rng ∨
    (∃ x lvl ts, i = echoInstr x lvl ts ∧ t.rng = echoEdge x lvl ts s.rng) ∨
    (∃ tick, i = .cmpMatchTrig tick ∧ t.rng = trigEvent s.rng) ∨
    (∃ now, i = .poll now ∧ t.rng = rangingStep s.cfg now s.rng) := by
  rcases exec_cases i s with ⟨_, _, -, he⟩ | ⟨x, lvl, ts, hi, he⟩ | ⟨_, -, he⟩ | ⟨_, -, he⟩ |
    ⟨tick, hi, he⟩ | ⟨now, rfl, -⟩ | ⟨-, ⟨_, he⟩ | he⟩ | ⟨hi, -⟩
  case inr.inl => cases h.symm.trans he; exact .inr (.inl ⟨x, lvl, ts, hi, rfl⟩)
  case inr.inr.inr.inr.inl => cases h.symm.trans he; exact .inr (.inr (.inl ⟨tick, hi, rfl⟩))
  case inr.inr.inr.inr.inr.inl =>
    obtain ⟨u, hu, -, -, hrng⟩ := exec_poll_rng now s
    cases h.symm.trans hu
    exact .inr (.inr (.inr ⟨now, rfl, hrng⟩))
  case inr.inr.inr.inr.inr.inr.inr => exact absurd hi hreset
  all_goals cases h.symm.trans he; exact .inl rfl

/-- Writing back a record with the same `probe_sent` keeps every sensor's `probe_sent`. -/
theorem PerSensor.sent_set {rs : PerSensor SensorRec} {x : Sensor} {v : SensorRec}
    (h : v.sent = (rs.get x).sent) (y : Sensor) : ((rs.set x v).get y).sent = (rs.get y).sent := by
  rw [PerSensor.get_set]
  split
  case isTrue hy => rw [hy, h]
  case isFalse => rfl

/-- Between POLLs only the sensor records and the timer's `cmp2_armed` move, and no `probe_sent`. -/
theorem exec_keeps_rng {i : Instr} {s t : State} (h : exec i s = .next t) (hpoll : isPoll i = false)
    (hreset : i ≠ .reset) :
    ∃ rs armed, t.rng = { s.rng with rs := rs, armed := armed } ∧
      ∀ x, (rs.get x).sent = (s.rng.rs.get x).sent := by
  rcases exec_rng_cases h hreset with hrng | ⟨x, lvl, ts, -, hrng⟩ | ⟨_, -, hrng⟩ | ⟨now, rfl, -⟩
  · exact ⟨_, _, hrng, fun _ => rfl⟩
  · by_cases htaken : echoTaken s.rng x = true
    · obtain ⟨-, hsent, -⟩ := captureEcho_frame lvl ts (s.rng.rs.get x)
      exact ⟨_, _, hrng.trans (echoEdge_of_taken x lvl ts htaken), PerSensor.sent_set hsent⟩
    · exact ⟨_, _, hrng.trans (echoEdge_of_ignored x lvl ts htaken), fun _ => rfl⟩
  · by_cases htaken : trigTaken s.rng = true
    · exact ⟨_, _, hrng.trans (trigEvent_of_taken htaken), PerSensor.sent_set rfl⟩
    · exact ⟨_, _, hrng.trans (trigEvent_of_spurious htaken), fun _ => rfl⟩
  · cases hpoll

/-- A classified record of the invariant is in ProbeIn. -/
theorem SensorInv.probeIn_of_finished {x : SensorRec} (h : SensorInv x) (hfin : x.finished = true) :
    x.phase = .probeIn :=
  h.rise_listen (h.pair_rise (h.finished_pair hfin))

/-- Settles O51: an obstacle is announced for a classified sensor, so the next POLL advances, and
nothing else but RESET moves the hand-off. -/
theorem obstaclePulseLastsOnePoll : Obligations.ObstaclePulseLastsOnePoll := by
  intro s hinv hobs
  refine ⟨fun now => ?_, fun i hpoll hreset => ?_⟩
  · obtain ⟨-, hfin, -⟩ := hinv.ranging.pulse hobs
    have hin := (hinv.ranging.records s.rng.cur).probeIn_of_finished hfin
    obtain ⟨t, ht, -, -, hrng⟩ := exec_poll_rng now s
    rw [rangingStep_of_finished _ _ hin hfin] at hrng
    exact ⟨t, ht, by rw [hrng]; rfl⟩
  · obtain ⟨t, ht, -⟩ := exec_keeps_cfg_stream i s
    obtain ⟨_, _, hrng, -⟩ := exec_keeps_rng ht hpoll hreset
    refine ⟨t, ht, ?_⟩
    rw [hrng]
    exact ⟨hobs, rfl, rfl⟩

/-! ## Who starts a probe and who makes a sensor fresh (R72) -/

/-- A POLL fires the current sensor, or advances to the next one, or keeps `cur` and every
`probe_sent`. -/
theorem rangingStep_sent_cases (p : Config.Params) (now : Tick) (r : Ranging) :
    ((r.rs.get r.cur).phase = .probeOut ∧ (rangingStep p now r).cur = r.cur ∧
      ∀ x, ((rangingStep p now r).rs.get x).sent = if x = r.cur then true else (r.rs.get x).sent) ∨
    ((r.rs.get r.cur).finished = true ∧
      ∀ x, ((rangingStep p now r).rs.get x).sent =
        if x = nextSensor r.cur then false else (r.rs.get x).sent) ∨
    ((rangingStep p now r).cur = r.cur ∧
      ∀ x, ((rangingStep p now r).rs.get x).sent = (r.rs.get x).sent) := by
  unfold rangingStep
  rcases rangingAction_cases p now { r with obstacle := false } with ⟨hout, -, he⟩ | ⟨-, -, he⟩ |
    ⟨-, hfin, he⟩ | ⟨-, -, -, he⟩ | ⟨-, -, -, he⟩ <;> rw [he]
  · refine .inl ⟨hout, rfl, fun x => ?_⟩
    rw [fire, PerSensor.get_set, apply_ite SensorRec.sent]
  · exact .inr (.inr ⟨rfl, fun _ => rfl⟩)
  · refine .inr (.inl ⟨hfin, fun x => ?_⟩)
    rw [advance, PerSensor.get_set, apply_ite SensorRec.sent]
    rfl
  · obtain he | he := classify_cases p r.cur { r with obstacle := false } <;> rw [he] <;>
      exact .inr (.inr ⟨rfl, PerSensor.sent_set rfl⟩)
  · exact .inr (.inr ⟨rfl, fun _ => rfl⟩)

/-- A stimulus other than RESET is a POLL that fires, a POLL that advances, or keeps `cur` and every
`probe_sent`. -/
theorem exec_sent_cases {i : Instr} {s t : State} (h : exec i s = .next t) (hreset : i ≠ .reset) :
    (isPoll i = true ∧ (s.rng.rs.get s.rng.cur).phase = .probeOut ∧ t.rng.cur = s.rng.cur ∧
      ∀ x, (t.rng.rs.get x).sent = if x = s.rng.cur then true else (s.rng.rs.get x).sent) ∨
    (isPoll i = true ∧ (s.rng.rs.get s.rng.cur).finished = true ∧
      ∀ x, (t.rng.rs.get x).sent =
        if x = nextSensor s.rng.cur then false else (s.rng.rs.get x).sent) ∨
    (t.rng.cur = s.rng.cur ∧ ∀ x, (t.rng.rs.get x).sent = (s.rng.rs.get x).sent) := by
  cases hpoll : isPoll i with
  | false =>
    obtain ⟨_, _, hrng, hsent⟩ := exec_keeps_rng h hpoll hreset
    rw [hrng]
    exact .inr (.inr ⟨rfl, hsent⟩)
  | true =>
    cases i with
    | poll now =>
      obtain ⟨u, hu, -, -, hrng⟩ := exec_poll_rng now s
      cases h.symm.trans hu
      rw [hrng]
      simpa using rangingStep_sent_cases s.cfg now s.rng
    | _ => cases hpoll

theorem initial_sent (p : Config.Params) (ws : List Word) (x : Sensor) :
    ((State.initial p ws).rng.rs.get x).sent = false := by
  cases x <;> rfl

/-- Settles O48: RESET clears every `probe_sent`, a POLL that fires sets the current sensor's, one
that advances clears the next sensor's, and every other stimulus keeps them and `cur`. -/
theorem noRetriggerBeforeClassification : Obligations.NoRetriggerBeforeClassification := by
  intro i s hinv
  obtain ⟨t, ht, -⟩ := exec_keeps_cfg_stream i s
  refine ⟨t, ht, ?_⟩
  by_cases hreset : i = .reset
  · subst hreset
    cases ht
    exact ⟨fun x _ hset => absurd ((initial_sent _ _ x).symm.trans hset) Bool.false_ne_true,
      fun _ _ _ => .inl rfl, fun _ => .inl rfl⟩
  rcases exec_sent_cases ht hreset with ⟨hpoll, hout, hcur, hsent⟩ | ⟨hpoll, hfin, hsent⟩ |
    ⟨hcur, hsent⟩
  case inl =>
    refine ⟨fun x hclear hset => ?_, fun x hset hclear => ?_, fun hne => absurd hcur hne⟩
    · have hx : x = s.rng.cur := by
        by_contra hx
        rw [hsent, if_neg hx, hclear] at hset
        cases hset
      subst hx
      exact ⟨hpoll, rfl, hout, hinv.ranging.one_probe⟩
    · simp [hsent, hset] at hclear
  case inr.inl =>
    refine ⟨fun x hclear hset => ?_, fun x hset hclear => .inr ⟨hpoll, hfin, ?_⟩,
      fun _ => .inr ⟨hpoll, hfin⟩⟩
    · simp [hsent, hclear] at hset
    · show x = nextSensor s.rng.cur
      by_contra hx
      rw [hsent, if_neg hx, hset] at hclear
      cases hclear
  case inr.inr =>
    exact ⟨fun x hclear hset => absurd (hclear.symm.trans ((hsent x).symm.trans hset)) (by decide),
      fun x hset hclear => absurd (hset.symm.trans ((hsent x).symm.trans hclear)) (by decide),
      fun hne => absurd hcur hne⟩

/-! ## An answered probe (R71, R72, R77 to R79) -/

@[simp] theorem PerSensor.set_set {α : Type} (r : PerSensor α) (x : Sensor) (v w : α) :
    (r.set x v).set x w = r.set x w := by
  cases x <;> rfl

/-- The ranging registers `r` of a fresh sensor, fired by a POLL at `now`, after the trigger pulse
and an echo from `rise` to `fall`. -/
def answered (p : Config.Params) (now rise fall : Tick) (r : Ranging) : Ranging :=
  { r with
    rs := r.rs.set r.cur { r.rs.get r.cur with
      phase := .probeIn, sent := true, feedback := true, riseSeen := true, riseTs := rise,
      fallTs := fall }
    cmp := tickAdd now p.trigWidthTicks.ticks
    armed := false
    obstacle := false }

/-- The four stimuli from the firing POLL to the falling edge, on the ranging registers. -/
theorem echoEdge_trigEvent_rangingStep_eq_answered (p : Config.Params) (now rise fall : Tick)
    {r : Ranging} (hout : (r.rs.get r.cur).phase = .probeOut)
    (hsent : (r.rs.get r.cur).sent = false) :
    echoEdge r.cur false fall (echoEdge r.cur true rise (trigEvent (rangingStep p now r))) =
      answered p now rise fall r := by
  rw [rangingStep_of_fresh p now hout hsent,
    trigEvent_of_taken (trigTaken_fire p now (r := { r with obstacle := false }) hout),
    echoEdge_of_taken r.cur true rise (by simp [echoTaken_iff, fire, beginListen]),
    echoEdge_of_taken r.cur false fall
      (by simp [echoTaken_iff, fire, beginListen, captureEcho])]
  simp [answered, fire, beginListen, captureEcho]

/-- Under the build `p`, the ranging registers are `r` and the stimuli `ws` are still to come. -/
structure RangingAt (p : Config.Params) (ws : List Word) (r : Ranging) (s : State) : Prop where
  cfg : s.cfg = p
  stream : s.stream = ws
  rng : s.rng = r

theorem rangingAt_facing (s : State) (ws : List Word) : RangingAt s.cfg ws s.rng (s.facing ws) :=
  ⟨rfl, rfl, rfl⟩

section RangingAt

variable {p : Config.Params} {ws : List Word} {r : Ranging} {s : State}

theorem RangingAt.step_poll {now : Tick} (h : RangingAt p (encode (.poll now) :: ws) r s) :
    ∃ t, step s = .next t ∧ RangingAt p ws (rangingStep p now r) t := by
  obtain ⟨rfl, hstream, rfl⟩ := h
  obtain ⟨t, ht, hcfg, hrest, hrng⟩ := exec_poll_rng now (s.setStream ws)
  exact ⟨t, (step_of_encode rfl hstream).trans ht, hcfg, hrest, hrng⟩

theorem RangingAt.step_cmpMatchTrig {tick : Tick}
    (h : RangingAt p (encode (.cmpMatchTrig tick) :: ws) r s) :
    ∃ t, step s = .next t ∧ RangingAt p ws (trigEvent r) t := by
  obtain ⟨rfl, hstream, rfl⟩ := h
  exact ⟨_, (step_of_encode rfl hstream).trans (exec_cmpMatchTrig tick _), rfl, rfl, rfl⟩

theorem RangingAt.step_echoInstr {x : Sensor} {lvl : Bool} {ts : Tick}
    (h : RangingAt p (encode (echoInstr x lvl ts) :: ws) r s) :
    ∃ t, step s = .next t ∧ RangingAt p ws (echoEdge x lvl ts r) t := by
  obtain ⟨rfl, hstream, rfl⟩ := h
  have hwf : (echoInstr x lvl ts).wellFormed = true := by cases x <;> rfl
  exact ⟨_, (step_of_encode hwf hstream).trans (exec_echoInstr x lvl ts _), rfl, rfl, rfl⟩

/-- The stimuli of an answered probe of the fresh current sensor: fire, end of pulse, echo pair,
classification. -/
theorem RangingAt.run_probeStimuli {fireAt trigAt rise fall classifyAt : Tick}
    (h : RangingAt p
      ((probeStimuli r.cur fireAt trigAt rise fall classifyAt).map encode ++ ws) r s)
    (hout : (r.rs.get r.cur).phase = .probeOut) (hsent : (r.rs.get r.cur).sent = false) :
    ∃ t, run 5 s = .next t ∧
      RangingAt p ws (rangingStep p classifyAt (answered p fireAt rise fall r)) t := by
  obtain ⟨_, hfire, h⟩ := h.step_poll
  obtain ⟨_, htrig, h⟩ := h.step_cmpMatchTrig
  obtain ⟨_, hrise, h⟩ := h.step_echoInstr
  obtain ⟨_, hfall, h⟩ := h.step_echoInstr
  obtain ⟨t, hclassify, h⟩ := h.step_poll
  rw [echoEdge_trigEvent_rangingStep_eq_answered p fireAt rise fall hout hsent] at h
  refine ⟨t, ?_, h⟩
  rw [run_succ 4 hfire, run_succ 3 htrig, run_succ 2 hrise, run_succ 1 hfall, run_succ 0 hclassify,
    run_zero]

end RangingAt

/-- The POLL after the falling edge classifies the sensor that was fired. -/
theorem rangingStep_answered (p : Config.Params) (now fireAt rise fall : Tick) {r : Ranging}
    (hfin : (r.rs.get r.cur).finished = false) :
    rangingStep p now (answered p fireAt rise fall r) =
      classify p r.cur (answered p fireAt rise fall r) :=
  rangingStep_of_pair p now (by simp [answered]) (by simp [answered, hfin]) (by simp [answered])

/-- What the classification of an echo from `rise` to `fall` leaves: the current sensor classified,
and the hand-off by the echo width (R77, R79). -/
structure Classified (p : Config.Params) (rise fall : Tick) (r q : Ranging) : Prop where
  cur : q.cur = r.cur
  phase : (q.rs.get r.cur).phase = .probeIn
  finished : (q.rs.get r.cur).finished = true
  obstacle : q.obstacle = decide ((p.collision.val : Int) < sdiff fall rise)
  coll : q.coll.get r.cur = decide ((p.collision.val : Int) < sdiff fall rise)
  obsSensor : q.obsSensor =
    if (p.collision.val : Int) < sdiff fall rise then r.cur else r.obsSensor
  obsDir : q.obsDir =
    if (p.collision.val : Int) < sdiff fall rise then turnDir p r.cur else r.obsDir

theorem classify_answered (p : Config.Params) (fireAt rise fall : Tick) (r : Ranging) :
    Classified p rise fall r (classify p r.cur (answered p fireAt rise fall r)) := by
  rw [classify_eq_ite]
  by_cases hhit : (p.collision.val : Int) < sdiff fall rise
  · rw [if_pos (by simpa [answered] using hhit)]
    constructor <;> simp [answered, hhit]
  · rw [if_neg (by simpa [answered] using hhit)]
    constructor <;> simp [answered, hhit]

/-- Settles O50: the five stimuli end in the classification of the answered probe, and the sixth
advances from it. -/
theorem answeredProbeCompletes : Obligations.AnsweredProbeCompletes := by
  intro s fireAt trigAt rise fall classifyAt advanceAt rest hout hsent hfin
  have hstart := rangingAt_facing s
    ((probeStimuli s.rng.cur fireAt trigAt rise fall classifyAt).map encode ++
      encode (.poll advanceAt) :: rest)
  obtain ⟨t, ht, h⟩ := hstart.run_probeStimuli hout hsent
  rw [rangingStep_answered s.cfg classifyAt fireAt rise fall hfin] at h
  have hdone := classify_answered s.cfg fireAt rise fall s.rng
  rw [← h.rng] at hdone
  obtain ⟨u, hu, hnext⟩ := RangingAt.step_poll (r := t.rng) ⟨h.cfg, h.stream, rfl⟩
  rw [rangingStep_of_finished s.cfg advanceAt (by rw [hdone.cur]; exact hdone.phase)
    (by rw [hdone.cur]; exact hdone.finished)] at hnext
  refine ⟨t, u, ht, hu, hdone.cur, hdone.finished, hdone.obstacle, hdone.coll, hdone.obsSensor,
    hdone.obsDir, ?_⟩
  rw [hnext.stream, hnext.rng, ← hdone.cur]
  refine ⟨rfl, rfl, rfl, rfl, rfl, ?_, ?_⟩ <;> simp [advance, freshProbe]

/-! ## The echo that never comes (R80, R324) -/

/-- The ranging registers `q` are those of `r`, but for what may move while the current sensor waits
for its echo; `risen` allows a rising edge to have been seen. -/
structure AwaitsEcho (r : Ranging) (risen : Bool) (q : Ranging) : Prop where
  cur : q.cur = r.cur
  phase : (q.rs.get r.cur).phase = .probeIn
  finished : (q.rs.get r.cur).finished = false
  feedback : (q.rs.get r.cur).feedback = false
  rise : (q.rs.get r.cur).riseSeen = true → risen = true
  coll : q.coll = r.coll
  others : ∀ x, x ≠ r.cur → q.rs.get x = r.rs.get x

section AwaitsEcho

variable {r q : Ranging} {b : Bool}

theorem AwaitsEcho.or (h : AwaitsEcho r b q) (c : Bool) : AwaitsEcho r (b || c) q :=
  { h with rise := fun hrise => by rw [h.rise hrise, Bool.true_or] }

/-- A rising edge keeps the sensor waiting, now with a rising edge seen. -/
theorem AwaitsEcho.echoEdge_rise (h : AwaitsEcho r b q) (ts : Tick) :
    AwaitsEcho r true (echoEdge r.cur true ts q) := by
  rw [echoEdge_of_taken _ _ _ ((echoTaken_iff q _).mpr ⟨h.cur.symm, h.phase, h.feedback⟩)]
  exact { h with
    phase := by simpa [captureEcho] using h.phase
    finished := by simpa [captureEcho] using h.finished
    feedback := by simpa [captureEcho] using h.feedback
    rise := fun _ => rfl
    others := fun x hx => (PerSensor.get_set_ne _ _ hx).trans (h.others x hx) }

/-- A falling edge with no rising one before it is ignored, and so is every edge of another sensor. -/
theorem AwaitsEcho.echoEdge_ignored (h : AwaitsEcho r b q) {x : Sensor} {lvl : Bool} (ts : Tick)
    (hx : x = r.cur → lvl = false ∧ b = false) : echoEdge x lvl ts q = q := by
  rw [echoEdge_eq_ite]
  split
  case isFalse => rfl
  case isTrue htaken =>
    obtain ⟨hcur, -⟩ := htaken
    subst hcur
    obtain ⟨rfl, rfl⟩ := hx h.cur
    have hrise : ¬ (q.rs.get q.cur).riseSeen = true := fun hrise => by
      rw [h.cur] at hrise
      cases h.rise hrise
    rw [if_neg Bool.false_ne_true, if_neg hrise]

theorem AwaitsEcho.trigEvent_eq (h : AwaitsEcho r b q) : trigEvent q = q := by
  refine trigEvent_of_spurious fun htaken => ?_
  obtain ⟨-, hout, -⟩ := (trigTaken_iff q).mp htaken
  rw [h.cur, h.phase] at hout
  cases hout

theorem AwaitsEcho.rangingStep (h : AwaitsEcho r b q) (p : Config.Params) (now : Tick) :
    AwaitsEcho r b (rangingStep p now q) := by
  rw [rangingStep_of_listening p now (h.cur ▸ h.phase) (h.cur ▸ h.finished) (h.cur ▸ h.feedback)]
  exact { h with }

end AwaitsEcho

theorem isEchoWord_of_decode {w : Word} {x : Sensor} {lvl : Bool} {ts : Tick}
    (h : decode w = .ok (echoInstr x lvl ts)) : isEchoWord x lvl w = true := by
  unfold isEchoWord
  rw [h]
  cases x <;> simp [echoInstr]

theorem noEchoPair_cons_iff (x : Sensor) (b : Bool) (w : Word) (ws : List Word) :
    noEchoPair x b (w :: ws) = true ↔
      (b = true → isEchoWord x false w = false) ∧
        noEchoPair x (b || isEchoWord x true w) ws = true := by
  rw [noEchoPair]
  cases b <;> simp

/-- A stimulus keeps the sensor waiting unless it is RESET or completes an echo pair. -/
theorem AwaitsEcho.of_exec {r : Ranging} {b : Bool} {w : Word} {i : Instr} {s t : State}
    (h : AwaitsEcho r b s.rng) (hw : decode w = .ok i) (hreset : i ≠ .reset)
    (hfall : b = true → isEchoWord r.cur false w = false) (ht : exec i s = .next t) :
    AwaitsEcho r (b || isEchoWord r.cur true w) t.rng := by
  rcases exec_rng_cases ht hreset with hrng | ⟨x, lvl, ts, rfl, hrng⟩ | ⟨_, -, hrng⟩ |
    ⟨now, -, hrng⟩ <;> rw [hrng]
  · exact h.or _
  · by_cases hrise : x = r.cur ∧ lvl = true
    · obtain ⟨rfl, rfl⟩ := hrise
      rw [isEchoWord_of_decode hw, Bool.or_true]
      exact h.echoEdge_rise ts
    · rw [h.echoEdge_ignored ts fun hx => ?_]
      · exact h.or _
      · subst hx
        obtain rfl : lvl = false := Bool.eq_false_of_not_eq_true fun hl => hrise ⟨rfl, hl⟩
        refine ⟨rfl, Bool.eq_false_of_not_eq_true fun hb => ?_⟩
        cases (hfall hb).symm.trans (isEchoWord_of_decode hw)
  · rw [h.trigEvent_eq]
    exact h.or _
  · exact (h.rangingStep s.cfg now).or _

/-- One word of a stream without RESET and without an echo pair keeps the sensor waiting. -/
theorem AwaitsEcho.step {r : Ranging} {b : Bool} {w : Word} {rest : List Word} {s : State}
    (h : AwaitsEcho r b s.rng) (hs : s.stream = w :: rest) (hreset : isResetWord w = false)
    (hfall : b = true → isEchoWord r.cur false w = false) :
    ∃ t, step s = .next t ∧ t.stream = rest ∧
      AwaitsEcho r (b || isEchoWord r.cur true w) t.rng := by
  rcases step_cases s with ⟨hnil, -⟩ | ⟨_, _, i, hcons, hd, he⟩ | ⟨_, _, e, hcons, hd, he⟩ <;>
    cases hs.symm.trans ‹_›
  · have hi : i ≠ .reset := fun hi => (isResetWord_eq_false_iff w).mp hreset (hi ▸ hd)
    obtain ⟨t, ht, -, hstream⟩ := exec_keeps_cfg_stream i (s.setStream rest)
    exact ⟨t, he.trans ht, hstream, h.of_exec (s := s.setStream rest) hd hi hfall ht⟩
  · exact ⟨_, he, rfl, h.or _⟩

/-- The sensor is still waiting after a whole stream without RESET and without an echo pair. -/
theorem AwaitsEcho.run {r : Ranging} {b : Bool} {ws : List Word} {s : State}
    (h : AwaitsEcho r b s.rng) (hs : s.stream = ws) (hreset : ∀ w ∈ ws, isResetWord w = false)
    (hpair : noEchoPair r.cur b ws = true) :
    ∃ t c, run ws.length s = .next t ∧ t.stream = [] ∧ AwaitsEcho r c t.rng := by
  induction ws generalizing b s with
  | nil => exact ⟨s, b, run_zero s, hs, h⟩
  | cons w rest ih =>
    obtain ⟨hw, hrest⟩ := List.forall_mem_cons.mp hreset
    obtain ⟨hfall, hlater⟩ := (noEchoPair_cons_iff _ _ _ _).mp hpair
    obtain ⟨u, hu, hstream, hwait⟩ := h.step hs hw hfall
    obtain ⟨t, c, ht, hend, hstill⟩ := ih hwait hstream hrest hlater
    exact ⟨t, c, (run_succ _ hu).trans ht, hend, hstill⟩

/-- Settles O49: a sensor that waits for its echo is still waiting after every such stream. -/
theorem missingEchoStallsRanging : Obligations.MissingEchoStallsRanging := by
  intro s ws hin hfin hpair hreset hstream
  have hwait : AwaitsEcho s.rng (s.rng.rs.get s.rng.cur).riseSeen s.rng :=
    ⟨rfl, hin, hfin, hpair, id, rfl, fun _ _ => rfl⟩
  obtain ⟨t, _, ht, hend, h⟩ := AwaitsEcho.run (s := s.facing ws) hwait rfl hreset hstream
  exact ⟨t, ht, hend, h.cur, h.phase, h.finished, h.feedback, h.coll, h.others⟩

end Sys2Proof.Machine
end

section
/-!
PROOFS for `spec/43_mode_arbiter.md`: what one POLL leaves in the arbiter registers, who else writes
them, the Zero command held over two POLLs, and auto mode under two radios.
-/

namespace Sys2Proof.Machine

/-! ## One POLL (R82 to R88) -/

/-- The toggle flips on the rising edge of Zero (R82). -/
theorem nextToggle_eq_ite (cmd : Command) (a : Arbiter) :
    nextToggle cmd a =
      if cmd = .zero ∧ a.prevCmd ≠ .zero then !a.autoToggle else a.autoToggle := by
  simp only [nextToggle, zeroRising, Bool.and_eq_true, decide_eq_true_eq]

/-- No command flips the toggle where the last one was Zero already. -/
theorem nextToggle_of_held (cmd : Command) {a : Arbiter} (h : a.prevCmd = .zero) :
    nextToggle cmd a = a.autoToggle := by
  rw [nextToggle_eq_ite, if_neg fun hrise => hrise.2 h]

theorem systemMode_eq_ite (eff target : Bool) :
    systemMode eff target =
      if eff = false then .manual else if target = true then .engaged else .searching := by
  cases eff <;> cases target <;> rfl

/-- The arbiter registers of `t` are those that a POLL from `s` leaves, given the command and the
effective mode of `t`. -/
structure Arbitrated (s t : State) : Prop where
  prevCmd : t.arb.prevCmd = t.rcCmd
  autoToggle : t.arb.autoToggle = nextToggle t.rcCmd s.arb
  autoEff : t.arb.autoEff = effectiveMode s.cfg.modeSource t.arb.autoToggle s.inp.modeSel
  sysMode : t.arb.sysMode = systemMode t.arb.autoEff s.inp.target
  motorCmd : t.arb.motorCmd = selectMotor t.arb.autoEff s.inp.evadeCmd t.rcCmd
  searchEn : t.arb.searchEn = t.arb.autoEff
  pull : t.arb.pull = effectivePull t.arb.autoEff s.inp.autoPull s.inp.manTrig

/-- A POLL completes, takes nothing from the stimuli still to come, and arbitrates. -/
theorem exec_poll_arb (now : Tick) (s : State) :
    ∃ t, exec (.poll now) s = .next t ∧ t.stream = s.stream ∧ Arbitrated s t := by
  obtain ⟨t, ht, -, hstream, -, -, -, -, -, -, -, harb, -⟩ := execPoll_next now s
  refine ⟨t, ht, hstream, ?_⟩
  constructor <;> rw [harb] <;> rfl

section Arbitrated

variable {s t : State} (h : Arbitrated s t)
include h

/-- In auto mode the inputs give the motor command and the pull condition (R85, R88). -/
theorem Arbitrated.of_auto (hauto : t.arb.autoEff = true) :
    t.arb.motorCmd = s.inp.evadeCmd ∧ t.arb.pull = s.inp.autoPull := by
  rw [h.motorCmd, h.pull, hauto]
  exact ⟨rfl, rfl⟩

/-- In manual mode the RC command gives the motor command, and the manual trigger the pull condition
(R85, R86, R88). -/
theorem Arbitrated.of_manual (hman : t.arb.autoEff = false) :
    t.arb.pull = s.inp.manTrig ∧ t.arb.motorCmd = manualMap t.rcCmd := by
  rw [h.motorCmd, h.pull, hman]
  exact ⟨rfl, rfl⟩

end Arbitrated

/-- Settles O31: the arbiter's registers, one rule at a time. -/
theorem pollArbitratesTheMode : Obligations.PollArbitratesTheMode := by
  intro now s
  obtain ⟨t, ht, -, h⟩ := exec_poll_arb now s
  refine ⟨t, ht, h.prevCmd, h.autoToggle.trans (nextToggle_eq_ite _ _), rfl, fun hsource => ?_,
    fun hsource => ?_, h.searchEn, h.of_auto, h.of_manual⟩
  all_goals rw [h.autoEff, hsource]; rfl

/-! ## Who writes the arbiter registers (R89) -/

/-- A stimulus that is neither a POLL nor RESET leaves the arbiter registers. -/
theorem exec_keeps_arb {i : Instr} (s : State) (hpoll : isPoll i = false) (hreset : i ≠ .reset) :
    ∃ t, exec i s = .next t ∧ t.arb = s.arb := by
  rcases exec_cases i s with ⟨_, _, -, he⟩ | ⟨_, _, _, -, he⟩ | ⟨_, -, he⟩ | ⟨_, -, he⟩ |
    ⟨_, -, he⟩ | ⟨now, rfl, -⟩ | ⟨-, ⟨_, he⟩ | he⟩ | ⟨hi, -⟩
  case inr.inr.inr.inr.inr.inl => cases hpoll
  case inr.inr.inr.inr.inr.inr.inr => exact absurd hi hreset
  all_goals exact ⟨_, he, rfl⟩

theorem outputs_status (s : State) : (outputs s).status = sysModeCode s.arb.sysMode := rfl

/-- Settles O32: POLL derives the mode, RESET makes it Init, and every other stimulus leaves the
arbiter. -/
theorem systemModeIsDerivedAtPoll : Obligations.SystemModeIsDerivedAtPoll := by
  refine ⟨fun now s => ?_, fun i s hpoll hreset => ?_, fun s => ⟨resetBlock s, rfl, rfl⟩,
    fun s u hmode => ?_⟩
  · obtain ⟨t, ht, -, h⟩ := exec_poll_arb now s
    have hmode := h.sysMode.trans (systemMode_eq_ite _ _)
    refine ⟨t, ht, hmode, ?_⟩
    rw [outputs_status, hmode, apply_ite sysModeCode, apply_ite sysModeCode]
    rfl
  · obtain ⟨t, ht, harb⟩ := exec_keeps_arb s hpoll hreset
    exact ⟨t, ht, by rw [harb]⟩
  · rw [outputs_status, outputs_status, hmode]

/-! ## The Zero command held over two POLLs (R82, D12) -/

theorem isPoll_eq_false_of_decode {w : Word} {i : Instr} (hw : decode w = .ok i)
    (h : isPollWord w = false) : isPoll i = false := by
  cases i with
  | poll now => simp [isPollWord, hw] at h
  | _ => rfl

/-- A step at a word that is neither a POLL nor RESET leaves the arbiter registers. -/
theorem step_keeps_arb {s : State} {w : Word} {rest : List Word} (hs : s.stream = w :: rest)
    (hpoll : isPollWord w = false) (hreset : isResetWord w = false) :
    ∃ t, step s = .next t ∧ t.stream = rest ∧ t.arb = s.arb := by
  rcases step_cases s with ⟨h, -⟩ | ⟨_, _, i, h, hd, he⟩ | ⟨_, _, e, h, hd, he⟩ <;>
    cases hs.symm.trans h
  · have hi : i ≠ .reset := fun hi => (isResetWord_eq_false_iff w).mp hreset (hi ▸ hd)
    obtain ⟨t, ht, harb⟩ :=
      exec_keeps_arb (s.setStream rest) (isPoll_eq_false_of_decode hd hpoll) hi
    obtain ⟨u, hu, -, hstream⟩ := exec_keeps_cfg_stream i (s.setStream rest)
    cases ht.symm.trans hu
    exact ⟨t, he.trans ht, hstream, harb⟩
  · exact ⟨_, he, rfl, rfl⟩

/-- A run over words that are neither a POLL nor RESET leaves the arbiter registers. -/
theorem run_keeps_arb {ws rest : List Word} {s : State} (hs : s.stream = ws ++ rest)
    (hws : ∀ w ∈ ws, isPollWord w = false ∧ isResetWord w = false) :
    ∃ t, run ws.length s = .next t ∧ t.stream = rest ∧ t.arb = s.arb := by
  induction ws generalizing s with
  | nil => exact ⟨s, run_zero s, hs, rfl⟩
  | cons w ws ih =>
    obtain ⟨⟨hpoll, hreset⟩, hlater⟩ := List.forall_mem_cons.mp hws
    obtain ⟨u, hu, hstream, hkept⟩ := step_keeps_arb hs hpoll hreset
    obtain ⟨t, ht, hend, harb⟩ := ih hstream hlater
    exact ⟨t, (run_succ _ hu).trans ht, hend, harb.trans hkept⟩

/-- Settles O33: the first POLL leaves Zero in `prev_cmd`, the words in between keep it there, and
the second POLL sees no rising edge. -/
theorem heldZeroTogglesOnce : Obligations.HeldZeroTogglesOnce := by
  intro now now' ws s hws
  obtain ⟨t, ht, -, hfirst⟩ := exec_poll_arb now s
  obtain ⟨v, hv, hlast, hkept⟩ :=
    run_keeps_arb (s := t.facing (ws ++ [encode (.poll now')])) rfl hws
  obtain ⟨u, hu, hend, hsecond⟩ := exec_poll_arb now' (v.setStream [])
  refine ⟨t, u, ht, ?_, hend, fun hzero => ?_⟩
  · rw [run_add _ 1 hv]
    exact run_succ 0 ((step_of_encode rfl hlast).trans hu)
  · have hheld : v.arb.prevCmd = .zero := by
      rw [hkept]
      exact hfirst.prevCmd.trans hzero
    calc u.arb.autoToggle
      _ = nextToggle u.rcCmd v.arb := hsecond.autoToggle
      _ = v.arb.autoToggle := nextToggle_of_held _ hheld
      _ = t.arb.autoToggle := by rw [hkept]; rfl

/-! ## Auto mode under two radios (R84, R85, R87, R88) -/

/-- Settles O34: in auto mode each of the four registers is a function of the input registers. -/
theorem autoModeIgnoresTheRadio : Obligations.AutoModeIgnoresTheRadio := by
  intro now₁ now₂ s₁ s₂ hinp
  obtain ⟨t₁, ht₁, -, h₁⟩ := exec_poll_arb now₁ s₁
  obtain ⟨t₂, ht₂, -, h₂⟩ := exec_poll_arb now₂ s₂
  refine ⟨t₁, t₂, ht₁, ht₂, fun hauto₁ hauto₂ => ?_⟩
  obtain ⟨hmotor₁, hpull₁⟩ := h₁.of_auto hauto₁
  obtain ⟨hmotor₂, hpull₂⟩ := h₂.of_auto hauto₂
  refine ⟨?_, ?_, ?_, ?_⟩
  · rw [hmotor₁, hmotor₂, hinp]
  · rw [hpull₁, hpull₂, hinp]
  · rw [h₁.searchEn, h₂.searchEn, hauto₁, hauto₂]
  · rw [h₁.sysMode, h₂.sysMode, hauto₁, hauto₂, hinp]

end Sys2Proof.Machine
end

section
/-!
PROOFS for `spec/44_host_ops.md`: what a step does with the next word, what POLL leaves alone, the
port writes, who sets and clears `ill`, and the model's answer for a whole stream.
-/

namespace Sys2Proof

/-! ## The range of a port value (R104, R224) -/

theorem decodeVal_of_gt {max : Nat} {val : BitVec 16} (i : Instr) (h : max < val.toNat) :
    decodeVal max val i = .error .badValue :=
  if_neg (Nat.not_le.mpr h)

/-- The boolean ports are ports 0 to 3. -/
theorem decodeSetIn_of_boolean_port {port : BitVec 4} {val : BitVec 16} (hport : port.toNat ≤ 3)
    (hval : 1 < val.toNat) : decodeSetIn port val = .error .badValue := by
  unfold decodeSetIn
  generalize port.toNat = n at hport
  match n with
  | 0 | 1 | 2 | 3 => exact decodeVal_of_gt _ hval
  | n + 4 => omega

end Sys2Proof

namespace Sys2Proof.Machine

/-! ## A step at a word (R100, R101) -/

/-- Settles O9: `exec` of the decoded stimulus is one of the three things a step can do, and the other
two are for no word and for an illegal one. -/
theorem stepRunsTheDecodedStimulus : Obligations.StepRunsTheDecodedStimulus := by
  intro s w ws i hs hd
  rcases step_cases s with ⟨h, -⟩ | ⟨_, _, j, h, hj, he⟩ | ⟨_, _, e, h, hj, -⟩ <;>
    cases hs.symm.trans h
  · cases hd.symm.trans hj
    exact he
  · cases hd.symm.trans hj

/-! ## POLL (R103) -/

/-- Settles O21, register by register from what a POLL does. -/
theorem pollLeavesTheRest : Obligations.PollLeavesTheRest := by
  intro now s
  obtain ⟨t, ht, hcfg, hstream, hinp, hmot, hsrv, hill, hlat, -⟩ := execPoll_next now s
  exact ⟨t, ht, hlat, hinp, hmot, hsrv, hill, hcfg, hstream⟩

/-! ## Port writes (R104) -/

section WritePort

variable {v : BitVec 16} (s : State)

theorem next_writePort_boolOfVal_of_le (put : Bool → Inputs) (h : v.toNat ≤ 1) :
    Host.Outcome.next (φ := Fault) (ρ := Refusal) (writePort (boolOfVal v) put s) =
      .next (s.setInp (put (v.getLsbD 0))) := by
  rw [boolOfVal_of_le h]
  rfl

theorem next_writePort_boolOfVal_of_gt (put : Bool → Inputs) (h : 1 < v.toNat) :
    Host.Outcome.next (φ := Fault) (ρ := Refusal) (writePort (boolOfVal v) put s) =
      .next (raiseIllegal s) := by
  rw [boolOfVal_of_gt h]
  rfl

theorem next_writePort_motorCmdOfVal_of_gt (put : MotorCmd → Inputs) (h : 4 < v.toNat) :
    Host.Outcome.next (φ := Fault) (ρ := Refusal) (writePort (motorCmdOfVal v) put s) =
      .next (raiseIllegal s) := by
  rw [(motorCmdOfVal_eq_none_iff v).mpr h]
  rfl

end WritePort

/-- Settles O52: each port is one `writePort`, whose value is there exactly in the port's range, and
the decoder tests the same range. -/
theorem setInWritesOnePort : Obligations.SetInWritesOnePort := by
  refine ⟨fun v s => ⟨?modeSel, ?modeSelIll, ?manTrig, ?manTrigIll, ?autoPull, ?autoPullIll, ?target,
      ?targetIll, next_writePort_motorCmdOfVal_of_gt s _, rfl, rfl⟩,
    fun s => ⟨rfl, rfl, rfl, rfl, rfl⟩,
    fun v => ⟨fun h => ⟨?_, ?_, ?_, ?_⟩, fun h p hp => ?_, fun h => ?_, fun h => ?_,
      decode_pack 5 5 false v, decode_pack 5 6 false v⟩⟩
  case modeSel | manTrig | autoPull | target => exact next_writePort_boolOfVal_of_le s _
  case modeSelIll | manTrigIll | autoPullIll | targetIll => exact next_writePort_boolOfVal_of_gt s _
  · exact (decode_pack 5 0 false v).trans (decodeVal_of_le _ h)
  · exact (decode_pack 5 1 false v).trans (decodeVal_of_le _ h)
  · exact (decode_pack 5 2 false v).trans (decodeVal_of_le _ h)
  · exact (decode_pack 5 3 false v).trans (decodeVal_of_le _ h)
  · exact (decode_pack 5 p false v).trans (decodeSetIn_of_boolean_port hp h)
  · exact (decode_pack 5 4 false v).trans (decodeVal_of_le _ h)
  · exact (decode_pack 5 4 false v).trans (decodeVal_of_gt _ h)

/-! ## Who sets and clears `ill` (R102, R38) -/

/-- A stimulus other than RESET keeps `ill`, or sets it for a value out of its port's range. -/
theorem exec_ill_cases {i : Instr} (s : State) (hreset : i ≠ .reset) :
    ∃ t, exec i s = .next t ∧ (t.ill = s.ill ∨ (i.wellFormed = false ∧ t.ill = true)) := by
  rcases exec_cases i s with ⟨_, _, -, he⟩ | ⟨_, _, _, -, he⟩ | ⟨_, -, he⟩ | ⟨_, -, he⟩ |
    ⟨_, -, he⟩ | ⟨now, -, he⟩ | ⟨hset, -⟩ | ⟨hi, -⟩
  case inr.inr.inr.inr.inr.inl =>
    obtain ⟨t, ht, -, -, -, -, -, hill, -⟩ := execPoll_next now s
    exact ⟨t, he.trans ht, .inl hill⟩
  case inr.inr.inr.inr.inr.inr.inl =>
    obtain ⟨x, he⟩ | ⟨hwf, he⟩ := exec_setIn_cases s hset
    · exact ⟨_, he, .inl rfl⟩
    · exact ⟨_, he, .inr ⟨hwf, rfl⟩⟩
  case inr.inr.inr.inr.inr.inr.inr => exact absurd hi hreset
  all_goals exact ⟨_, he, .inl rfl⟩

/-- A legal stimulus other than RESET keeps `ill`. -/
theorem exec_keeps_ill {i : Instr} (s : State) (hwf : i.wellFormed = true) (hreset : i ≠ .reset) :
    ∃ t, exec i s = .next t ∧ t.ill = s.ill := by
  obtain ⟨t, ht, hill | ⟨hnot, -⟩⟩ := exec_ill_cases s hreset
  · exact ⟨t, ht, hill⟩
  · exact absurd (hnot.symm.trans hwf) Bool.false_ne_true

/-- `ill` is sticky: a stimulus other than RESET, legal or not, does not clear it. -/
theorem exec_ill_of_ill {i : Instr} {s : State} (hreset : i ≠ .reset) (h : s.ill = true) :
    ∃ t, exec i s = .next t ∧ t.ill = true := by
  obtain ⟨t, ht, hill | ⟨-, hill⟩⟩ := exec_ill_cases s hreset
  · exact ⟨t, ht, hill.trans h⟩
  · exact ⟨t, ht, hill⟩

theorem exec_reset (s : State) : exec .reset s = .next (resetBlock s) := rfl

/-- Settles O54: a step waits, resets, runs another stimulus, which is well formed as it was decoded, or
raises `ill`. -/
theorem illIsStickyAndOnlyForIllegalWords : Obligations.IllIsStickyAndOnlyForIllegalWords := by
  intro s
  rcases step_cases s with ⟨hs, he⟩ | ⟨w, ws, i, hs, hd, he⟩ | ⟨w, ws, e, hs, hd, he⟩
  · exact ⟨s, he, by simp [hs], by simp [hs]⟩
  · by_cases hi : i = .reset
    · subst hi
      exact ⟨_, he.trans (exec_reset _), fun hno => absurd hd (hno w ws hs), fun _ _ _ _ => rfl⟩
    · obtain ⟨t, ht, hill⟩ :=
        exec_keeps_ill (s.setStream ws) (encodeOfDecodeIsTheWord w i hd).1 hi
      exact ⟨t, he.trans ht, by simp [hill, hs, hd], by simp [hs, hd, hi]⟩
  · exact ⟨_, he, by simp [hs, hd], by simp [hs, hd]⟩

/-! ## Whole streams (R102, D23, I1) -/

theorem allLegal_iff (ws : List Word) : allLegal ws = true ↔ ∀ w ∈ ws, ∃ i, decode w = .ok i := by
  simp only [allLegal, List.all_eq_true, isLegalWord_iff]

theorem isLegalWord_eq_false_iff (w : Word) : isLegalWord w = false ↔ ∃ e, decode w = .error e := by
  unfold isLegalWord
  cases decode w <;> simp [Except.toOption]

/-- A stream of stimuli is run by the block. -/
theorem runStream_of_legal (s : State) {ws : List Word} (h : allLegal ws = true) :
    runStream s ws = run ws.length (s.facing ws) := by
  obtain ⟨-, hrun⟩ | ⟨before, w, after, rfl, -, hill, -⟩ := runStream_cases s ws
  · exact hrun
  · simp [allLegal, hill] at h

/-- A stream with an illegal word is refused, by a word of its own that is illegal. -/
theorem runStream_of_illegal (s : State) {ws : List Word} (h : allLegal ws ≠ true) :
    ∃ w ∈ ws, (∃ e, decode w = .error e) ∧ runStream s ws = .refused (.illegalStream w) := by
  obtain ⟨hlegal, -⟩ | ⟨before, w, after, rfl, -, hill, href⟩ := runStream_cases s ws
  · exact absurd hlegal h
  · exact ⟨w, by simp, (isLegalWord_eq_false_iff w).mp hill, href⟩

/-- A step at a word consumes it, whatever it is. -/
theorem step_consumes {s : State} {w : Word} {rest : List Word} (hs : s.stream = w :: rest) :
    ∃ t, step s = .next t ∧ t.stream = rest := by
  obtain ⟨t, ht, -, hstream⟩ := parametersAreNeverWritten s
  exact ⟨t, ht, by rw [hstream, hs, List.tail_cons]⟩

/-- The block runs over every stream, to its end. -/
theorem run_facing_next (s : State) (ws : List Word) :
    ∃ t, run ws.length (s.facing ws) = .next t ∧ t.stream = [] := by
  obtain ⟨t, ht, hend, -⟩ := run_stream_induction (P := fun _ _ => True) (good := fun _ => True)
    (ws := ws) (read := []) (s := s.facing ws)
    (fun _ hs _ => (step_consumes hs).imp fun _ ⟨hu, hstream⟩ => ⟨hu, hstream, trivial⟩)
    (fun _ _ => trivial) rfl trivial
  exact ⟨t, ht, hend⟩

/-- A step at a stimulus leaves `ill` clear. -/
theorem step_keeps_ill_clear {s : State} {w : Word} {rest : List Word} {i : Instr}
    (hd : decode w = .ok i) (hs : s.stream = w :: rest) (h : s.ill = false) :
    ∃ t, step s = .next t ∧ t.stream = rest ∧ t.ill = false := by
  obtain ⟨t, ht, hiff, hclear⟩ := illIsStickyAndOnlyForIllegalWords s
  obtain ⟨u, hu, hstream⟩ := step_consumes hs
  cases ht.symm.trans hu
  refine ⟨t, ht, hstream, ?_⟩
  by_cases hi : i = .reset
  · exact hclear w rest hs (hi ▸ hd)
  · have hset := hiff (by simp [hs, hd, hi])
    simpa [h, hs, hd] using hset

/-- Settles O55: the block records an illegal word in `ill`, and the model's answer for the stream
rests on `runStream` alone. -/
theorem illegalWordsSetIllAndTheirStreamsAreRefused :
    Obligations.IllegalWordsSetIllAndTheirStreamsAreRefused := by
  refine ⟨fun w e s hd => step_present_of_error s hd, fun i s => exec_ill_of_ill,
    fun s => ⟨_, exec_reset s, rfl⟩, fun s ws ⟨w, hw, e, he⟩ => ?_, fun s ws hlegal => ?_⟩
  · refine runStream_of_illegal s fun hall => ?_
    obtain ⟨i, hi⟩ := (allLegal_iff ws).mp hall w hw
    cases he.symm.trans hi
  · obtain ⟨t, ht, hend⟩ := run_facing_next s ws
    exact ⟨t, (runStream_of_legal s ((allLegal_iff ws).mpr hlegal)).trans ht, ht, hend⟩

/-- Settles O56: a clear `ill` is carried over each word of the stream, a stimulus every one. -/
theorem legalStreamsKeepIllClear : Obligations.LegalStreamsKeepIllClear := by
  intro s ws hclear hlegal
  obtain ⟨t, ht, hend, hill⟩ := run_stream_induction (P := fun _ t => t.ill = false)
    (good := fun w => ∃ i, decode w = .ok i) (ws := ws) (read := []) (s := s.facing ws)
    (fun ⟨_, hd⟩ => step_keeps_ill_clear hd) ((allLegal_iff ws).mp hlegal) rfl hclear
  exact ⟨t, (runStream_of_legal s hlegal).trans ht, hend, hill⟩

end Sys2Proof.Machine
end

section
/-!
PROOFS for `spec/60_exceptions.md`: the block's one exception, and that no stimulus traps away.
-/

namespace Sys2Proof.Machine

/-! ## The one exception (R300) -/

/-- A state with a word to come is one in which that word has just been presented. -/
theorem present_setStream_of_stream_eq_cons {s : State} {w : Word} {ws : List Word}
    (hs : s.stream = w :: ws) : present (s.setStream ws) w = s :=
  calc present (s.setStream ws) w
    _ = s.setStream (w :: ws) := rfl
    _ = s.setStream s.stream := by rw [hs]
    _ = s := s.setStream_stream_self

/-- Settles O10: the block applies the illegal word as one presented to the state without it, where
`raiseIllegal` writes `ill` alone. -/
theorem illegalStimulusOnlySetsIll : Obligations.IllegalStimulusOnlySetsIll := by
  intro s w ws e hs hd
  have hstep := step_present_of_error (s.setStream ws) hd
  rw [present_setStream_of_stream_eq_cons hs] at hstep
  exact hstep

/-! ## No traps, no privilege (R305, R306) -/

/-- Every stimulus completes; an ill-formed port write does so by raising `ill`. -/
theorem exec_completes (i : Instr) (s : State) : ∃ t, exec i s = .next t :=
  (exec_keeps_cfg_stream i s).imp fun _ ⟨ht, _⟩ => ht

/-- Settles O12: a step applies a stimulus, which completes, or it waits or raises `ill`. -/
theorem everyStimulusCompletes : Obligations.EveryStimulusCompletes := by
  refine ⟨exec_completes, fun s => ?_⟩
  rcases step_cases s with ⟨-, hwait⟩ | ⟨w, ws, i, -, -, hrun⟩ | ⟨w, ws, e, -, -, hill⟩
  · exact ⟨s, hwait⟩
  · rw [hrun]
    exact exec_completes i (s.setStream ws)
  · exact ⟨_, hill⟩

end Sys2Proof.Machine
end

section
/-!
PROOFS for `spec/70_reset_and_hazards.md`: what a true interval reads as, and the RC edges that are
not lost while a POLL stands between every two.
-/

namespace Sys2Proof.Machine

/-! ## True intervals on the wrapping counter (R321) -/

/-- The counter's readings of two true times less than a whole turn apart differ by their interval,
wherever the counter wraps. -/
theorem toNat_ofNat_sub_ofNat {old new : Nat} (hle : old ≤ new) (hturn : new - old < 65536) :
    (BitVec.ofNat 16 new - BitVec.ofNat 16 old).toNat = new - old := by
  obtain ⟨d, rfl⟩ := Nat.exists_eq_add_of_le hle
  rw [Nat.add_sub_cancel_left] at hturn ⊢
  rw [BitVec.ofNat_add, add_sub_cancel_left, BitVec.toNat_ofNat]
  exact Nat.mod_eq_of_lt hturn

/-- Settles O17: the modular difference is the interval itself, which R11 reads as it is below half a
turn of the counter, and 65536 lower from there on. -/
theorem longIntervalsAlias : Obligations.LongIntervalsAlias := by
  refine fun old new => ⟨fun ⟨hle, hnear⟩ => ?_, fun hfar hturn => ?_⟩
  · rw [sdiff_eq_ite, toNat_ofNat_sub_ofNat hle (by omega), if_pos hnear, Nat.cast_sub hle]
  · have hle : old ≤ new := by omega
    rw [sdiff_eq_ite, toNat_ofNat_sub_ofNat hle hturn, if_neg (Nat.not_lt.mpr hfar),
      Nat.cast_sub hle]

/-! ## Who writes the RC edge latch (R21, R22) -/

/-- A POLL consumes the pending edge and keeps the rest of the latch. -/
theorem exec_poll_lat (now : Tick) (s : State) :
    ∃ t, exec (.poll now) s = .next t ∧ t.lat = { s.lat with pend := false } := by
  obtain ⟨t, ht, -, -, -, -, -, -, hlat, -⟩ := execPoll_next now s
  exact ⟨t, ht, hlat⟩

/-- A stimulus that is neither an RC edge, a POLL nor RESET leaves the latch. -/
theorem exec_keeps_lat {i : Instr} (s : State) (hedge : ∀ lvl ts, i ≠ .rcEdge lvl ts)
    (hpoll : isPoll i = false) (hreset : i ≠ .reset) :
    ∃ t, exec i s = .next t ∧ t.lat = s.lat := by
  rcases exec_cases i s with ⟨lvl, ts, hi, -⟩ | ⟨_, _, _, -, he⟩ | ⟨_, -, he⟩ | ⟨_, -, he⟩ |
    ⟨_, -, he⟩ | ⟨now, rfl, -⟩ | ⟨-, ⟨_, he⟩ | he⟩ | ⟨hi, -⟩
  case inl => exact absurd hi (hedge lvl ts)
  case inr.inr.inr.inr.inr.inl => cases hpoll
  case inr.inr.inr.inr.inr.inr.inr => exact absurd hi hreset
  all_goals exact ⟨_, he, rfl⟩

/-! ## Polled edges (R323) -/

/-- What each word asks of the rest of the stream. -/
theorem pollsSeparateEdges_cons (waiting : Bool) (w : Word) (ws : List Word) :
    pollsSeparateEdges waiting (w :: ws) =
      match decode w with
      | .ok (.rcEdge _ _) => !waiting && pollsSeparateEdges true ws
      | .ok (.poll _) => pollsSeparateEdges false ws
      | .ok .reset => pollsSeparateEdges false ws
      | _ => pollsSeparateEdges waiting ws := rfl

/-- No edge has been lost, and the stimuli still to come poll each edge before the next one. -/
structure EdgesPolled (l : Latch) (ws : List Word) : Prop where
  ovr : l.ovr = false
  separated : pollsSeparateEdges l.pend ws = true

/-- An RC edge finds the latch free, a POLL or a RESET frees it, and every other stimulus leaves it. -/
theorem EdgesPolled.of_exec {w : Word} {ws : List Word} {i : Instr} {s : State}
    (h : EdgesPolled s.lat (w :: ws)) (hw : decode w = .ok i) :
    ∃ t, exec i s = .next t ∧ EdgesPolled t.lat ws := by
  obtain ⟨hovr, hsep⟩ := h
  have hother := exec_keeps_lat (i := i) s
  rw [pollsSeparateEdges_cons, hw] at hsep
  cases i with
  | rcEdge lvl ts =>
    obtain ⟨hfree, hlater⟩ : s.lat.pend = false ∧ pollsSeparateEdges true ws = true := by
      simpa using hsep
    have hkept : overrun s.lat = false := by rw [overrun, hfree, hovr, Bool.or_self]
    exact ⟨_, exec_rcEdge lvl ts s, hkept, hlater⟩
  | poll now =>
    obtain ⟨t, ht, hlat⟩ := exec_poll_lat now s
    exact ⟨t, ht, by rw [hlat]; exact ⟨hovr, hsep⟩⟩
  | reset => exact ⟨_, exec_reset s, rfl, hsep⟩
  | _ =>
    obtain ⟨t, ht, hlat⟩ := hother nofun rfl nofun
    exact ⟨t, ht, by rw [hlat]; exact ⟨hovr, hsep⟩⟩

/-- An illegal word leaves the latch, and asks nothing of the rest of the stream. -/
theorem EdgesPolled.of_error {w : Word} {ws : List Word} {e : DecodeError} {l : Latch}
    (h : EdgesPolled l (w :: ws)) (hw : decode w = .error e) : EdgesPolled l ws where
  ovr := h.ovr
  separated := by
    have hsep := h.separated
    rwa [pollsSeparateEdges_cons, hw] at hsep

/-- One step takes one word from the stream and loses no edge. -/
theorem step_edgesPolled {s : State} {w : Word} {rest : List Word} (hs : s.stream = w :: rest)
    (h : EdgesPolled s.lat s.stream) :
    ∃ t, step s = .next t ∧ t.stream = rest ∧ EdgesPolled t.lat t.stream := by
  rw [hs] at h
  rcases step_cases s with ⟨hnil, -⟩ | ⟨_, _, i, hcons, hd, he⟩ | ⟨_, _, e, hcons, hd, he⟩ <;>
    cases hs.symm.trans ‹_›
  · obtain ⟨t, ht, hpolled⟩ := EdgesPolled.of_exec (s := s.setStream rest) h hd
    obtain ⟨u, hu, hstream⟩ := step_consumes hs
    cases hu.symm.trans (he.trans ht)
    exact ⟨t, hu, hstream, hstream.symm ▸ hpolled⟩
  · exact ⟨_, he, rfl, h.of_error hd⟩

/-- Settles O30: that every edge is polled before the next one is carried over each word of the
stream. -/
theorem noEdgeIsLostWhenPolled : Obligations.NoEdgeIsLostWhenPolled := by
  intro s ws hovr hsep
  obtain ⟨t, ht, hend, hpolled⟩ :=
    run_stream_induction (P := fun _ t => EdgesPolled t.lat t.stream) (good := fun _ => True)
      (ws := ws) (read := []) (s := s.facing ws) (fun _ => step_edgesPolled) (fun _ _ => trivial)
      rfl ⟨hovr, hsep⟩
  exact ⟨t, ht, hend, hpolled.ovr⟩

end Sys2Proof.Machine
end


section
/-!
PROOFS for the words that `spec/95_test_vectors.md` and `spec/40_rc_decoder.md` write out, and for
the wait of `spec/20_memory.md`.
-/

namespace Sys2Proof

/-! ## Words written out (R223) -/

/-- By the round trip, a word decodes to the stimulus whose encoding it is. -/
theorem decode_of_encode_eq {w : Word} {i : Instr} (hwf : i.wellFormed = true)
    (henc : encode i = w) : decode w = .ok i :=
  henc ▸ decodeOfEncodeIsTheStimulus i hwf

/-- Settles O6: each word is the encoding of its stimulus, whose port value is in range. -/
theorem listedWordsDecode : Obligations.ListedWordsDecode := by
  unfold Obligations.ListedWordsDecode
  and_intros <;> exact decode_of_encode_eq rfl rfl

end Sys2Proof

namespace Sys2Proof.Machine

/-! ## The wait for a stimulus (R201) -/

/-- Settles O11: a step waits, or it takes a word from the stream, which here is empty. -/
theorem stepWaitsWithoutStimulus : Obligations.StepWaitsWithoutStimulus := by
  intro s hs
  rcases step_cases s with ⟨-, hwait⟩ | ⟨_, _, _, hcons, -, -⟩ | ⟨_, _, _, hcons, -, -⟩
  · exact hwait
  all_goals cases hs.symm.trans hcons

end Sys2Proof.Machine
end
